-- ==== Sys2Proof/Word.lean ====
section
/-! DEFINITION. The sizes of 00_scope.md R13: byte, word, dword (a Keccak lane is a dword). -/

namespace Sys2Proof

/-- An unsigned integer of 8 bits (R13). -/
abbrev Byte := BitVec 8

/-- An unsigned integer of 32 bits (R13). -/
abbrev Word := BitVec 32

/-- An unsigned integer of 64 bits (R13); also one Keccak lane (R18). -/
abbrev Dword := BitVec 64

end Sys2Proof
end

