-- ==== Sys2Proof/Config.lean ====
section
/-! DEFINITION. What an implementation or its platform fixes (the open parameters of 00_scope.md R12 and
92_eei_decisions.md), and the values the spec leaves free (93_implementation_defined.md, "any value"). -/

namespace Sys2Proof

/-- `KECCAK_REUSE` (R12, D9): what DIGEST does to a Keccak instance. -/
inductive KeccakReuse where
  /-- The default: DIGEST resets the instance (R171). -/
  | reset
  /-- The alternative: DIGEST finalizes it, and its `H` becomes unspecified (R172). -/
  | error
  deriving DecidableEq, Repr

/-- A range of host addresses, `base` to `base + size - 1`. -/
structure Region where
  base : Nat
  size : Nat
  deriving DecidableEq, Repr

/-- The platform around one core. The predicates of R12 over the finite address space are given by
the ranges where they fail (log entry 4, DEDUCED, safe). -/
structure Platform where
  /-- `AW`, the width of a host data-memory address; 8 to 64, default 32 (R12, D5). -/
  aw : Nat
  /-- `KECCAK_REUSE` (R12, D9). -/
  keccakReuse : KeccakReuse
  /-- Where `HostReadable` fails (R12, D6). -/
  unreadable : List Region
  /-- Where `HostWritable` fails (R12, D6). -/
  unwritable : List Region
  /-- Device regions with side effects, which are outside the spec (R69, U14; log entry 11). -/
  devices : List Region
  deriving DecidableEq, Repr

/-- The defaults of R12: `AW = 32`, `KECCAK_REUSE = reset`, both predicates true everywhere; no device. -/
def Platform.default : Platform :=
  { aw := 32, keccakReuse := .reset, unreadable := [], unwritable := [], devices := [] }

/-- `8 ≤ AW ≤ 64` (R12). -/
def Platform.legal (p : Platform) : Bool := decide (8 ≤ p.aw) && decide (p.aw ≤ 64)

/-- The free words: draw `n` of an unspecified 32-bit value (U1, U2, U5). No body: nothing can be
proved about any value of it (log entry 5, safe). -/
opaque Config.freeWord : Nat → Word

/-- The free bytes: draw `n` of an unspecified byte (U1; log entry 5, safe). -/
opaque Config.freeByte : Nat → Byte

/-- The free choices: draw `n` of an unspecified bit (U7; log entry 5, safe). -/
opaque Config.freeBit : Nat → Bool

end Sys2Proof
end

