-- ==== Sys2Proof/Syntax.lean ====
section
/-! DEFINITION. The eleven commands of 30_encoding.md R94, one constructor for each row of
opcode_table.json. -/

namespace Sys2Proof

/-- The field `kpad` and the register `KPAD` (R33, R93): the Keccak padding class. -/
inductive KPad where
  /-- 0: Keccak (legacy), padding byte `0x01`. -/
  | keccak
  /-- 1: SHA-3 (NIST), `0x06`. -/
  | sha3
  /-- 2: SHAKE, `0x1F`. -/
  | shake
  /-- 3: cSHAKE or KMAC with customization present, `0x04`. -/
  | cshake
  deriving DecidableEq, Repr

/-- A command. `kbits` is "the unsigned 10-bit integer in bits 9..0" (R93); that it fits is
`Instr.wf`'s check, and which values are legal is checked when the command runs (R104). -/
inductive Instr where
  | initMd5
  | initSha1
  | initSha256
  | initKeccak (kpad : KPad) (kbits : Nat)
  | update
  | digest
  | reset
  | xfMd5
  | xfSha1
  | xfSha256
  | xfKeccakf
  deriving DecidableEq, Repr

end Sys2Proof
end

