-- ==== Sys2Proof/WellFormed.lean ====
section
/-! DEFINITION. Which terms of `Instr` have an encoding: every field fits its bits (30_encoding.md R91). -/

namespace Sys2Proof

/-- The one field that can fail to fit is `kbits`, 10 bits (R91, R93). -/
def Instr.wf : Instr → Bool
  | .initMd5 => true
  | .initSha1 => true
  | .initSha256 => true
  | .initKeccak _ kbits => decide (kbits < 2 ^ 10)
  | .update => true
  | .digest => true
  | .reset => true
  | .xfMd5 => true
  | .xfSha1 => true
  | .xfSha256 => true
  | .xfKeccakf => true

end Sys2Proof
end

