-- ==== Sys2Proof/Decode.lean ====
section
/-! DEFINITION. The decoder of 30_encoding.md R94, total on the 2^32 command words (R102), and the
encoder of R105. A command is one 32-bit word that the host writes to `CMD` (R90); it is never
fetched from memory, so it has no byte order (R65). -/

namespace Sys2Proof

/-- The number of a padding class (R33, R93). -/
def kpadCode : KPad → Nat
  | .keccak => 0
  | .sha3 => 1
  | .shake => 2
  | .cshake => 3

/-- The padding class of a 2-bit field (R93). -/
def kpadOf (b : BitVec 2) : KPad :=
  match b.toNat with
  | 0 => .keccak
  | 1 => .sha3
  | 2 => .shake
  | _ => .cshake

/-- Field `op`, bits 31..24 (R91). -/
def fieldOp (c : Word) : BitVec 8 := c.extractLsb' 24 8

/-- Field `alg`, bits 23..20 (R91). -/
def fieldAlg (c : Word) : BitVec 4 := c.extractLsb' 20 4

/-- Field `kpad`, bits 19..18 (R91). -/
def fieldKpad (c : Word) : BitVec 2 := c.extractLsb' 18 2

/-- Field `zero`, bits 17..10 (R91). -/
def fieldZero (c : Word) : BitVec 8 := c.extractLsb' 10 8

/-- Field `kbits`, bits 9..0 (R91). -/
def fieldKbits (c : Word) : BitVec 10 := c.extractLsb' 0 10

/-- One row of the opcode map (R94): a word `c` is of this row when `c &&& mask = pattern`. -/
structure Row where
  pattern : Word
  mask : Word
  instr : Word → Instr

/-- The opcode map, row by row as R94 prints it. -/
def opcodeMap : List Row :=
  [ ⟨0x01100000#32, 0xFFFFFFFF#32, fun _ => .initMd5⟩,
    ⟨0x01200000#32, 0xFFFFFFFF#32, fun _ => .initSha1⟩,
    ⟨0x01300000#32, 0xFFFFFFFF#32, fun _ => .initSha256⟩,
    ⟨0x01400000#32, 0xFFF3FC00#32, fun c => .initKeccak (kpadOf (fieldKpad c)) (fieldKbits c).toNat⟩,
    ⟨0x02000000#32, 0xFFFFFFFF#32, fun _ => .update⟩,
    ⟨0x03000000#32, 0xFFFFFFFF#32, fun _ => .digest⟩,
    ⟨0x04000000#32, 0xFFFFFFFF#32, fun _ => .reset⟩,
    ⟨0x10000000#32, 0xFFFFFFFF#32, fun _ => .xfMd5⟩,
    ⟨0x11000000#32, 0xFFFFFFFF#32, fun _ => .xfSha1⟩,
    ⟨0x12000000#32, 0xFFFFFFFF#32, fun _ => .xfSha256⟩,
    ⟨0x13000000#32, 0xFFFFFFFF#32, fun _ => .xfKeccakf⟩ ]

/-- The command of a word: that of the first row that matches; `none` when the word is illegal
(R94, R100). -/
def decode (c : Word) : Option Instr :=
  (opcodeMap.find? fun r => c &&& r.mask == r.pattern).map fun r => r.instr c

/-- The word of a command (R91, R94, R105). -/
def encode : Instr → Word
  | .initMd5 => 0x01100000#32
  | .initSha1 => 0x01200000#32
  | .initSha256 => 0x01300000#32
  | .initKeccak kpad kbits => BitVec.ofNat 32 (0x01400000 + kpadCode kpad * 2 ^ 18 + kbits)
  | .update => 0x02000000#32
  | .digest => 0x03000000#32
  | .reset => 0x04000000#32
  | .xfMd5 => 0x10000000#32
  | .xfSha1 => 0x11000000#32
  | .xfSha256 => 0x12000000#32
  | .xfKeccakf => 0x13000000#32

/-- The command of a table word `w` of `nbits` bits, every bit above them 0: a command is one 32-bit
word (R103), so a number that needs more bits is no command word. -/
def decodeTableWord (nbits w : Nat) : Option Instr :=
  if w % 2 ^ nbits < 2 ^ 32 then decode (BitVec.ofNat 32 (w % 2 ^ nbits)) else none

end Sys2Proof
end

