-- ==== Sys2Proof/Machine/State.lean ====
section
/-! DEFINITION. The state of the machine (10_state.md), the host's accesses and the platform around it,
the reasons a step can stop, and the state after hardware reset (R46, R350). -/

namespace Sys2Proof.Machine

/-- The register `ALG` (R32); the values 5 to 15 "are never held". -/
inductive Alg where
  /-- 0: no instance created. -/
  | none
  /-- 1 -/
  | md5
  /-- 2 -/
  | sha1
  /-- 3 -/
  | sha256
  /-- 4 -/
  | keccak
  deriving DecidableEq, Repr

/-- The error register `ERR` (R311); codes 9 to 255 "are never produced". -/
inductive Err where
  /-- 0: no error. -/
  | none
  /-- 1: `ERR_ILLEGAL_CMD`. -/
  | illegalCmd
  /-- 2: `ERR_NOT_CREATED`. -/
  | notCreated
  /-- 3: `ERR_FINALIZED`. -/
  | finalized
  /-- 4: `ERR_BUFSIZE`. -/
  | bufSize
  /-- 5: `ERR_RANGE`. -/
  | range
  /-- 6: `ERR_PARAM`. -/
  | param
  /-- 7: `ERR_ALG`. -/
  | alg
  /-- 8: `ERR_BUS`. -/
  | bus
  deriving DecidableEq, Repr

/-- One byte access of the core to host data memory (R68). -/
inductive MemEvent where
  /-- The core read `value` at `addr`. -/
  | read (addr : Nat) (value : Byte)
  /-- The core wrote `value` at `addr`. -/
  | write (addr : Nat) (value : Byte)
  deriving DecidableEq, Repr

/-- What the host can do, one access at a time (R73, R106; log entry 1). -/
inductive HostOp where
  /-- `WR`: a write of `width` bytes at a byte offset of the register file. -/
  | write (offset width : Nat) (value : Word)
  /-- `RD`: a read of `width` bytes at a byte offset of the register file. -/
  | read (offset width : Nat)
  /-- `WR` of the value that the host's last `RD` returned, as in `RD DSIZE` (value `d`) then
  `WR DST_LEN, d` (R112). -/
  | writeBack (offset width : Nat)
  /-- The host stores a byte in its data memory (R74 (a)). -/
  | store (addr : Nat) (value : Byte)
  /-- The reset input is asserted and released while no command executes (R350). -/
  | reset
  /-- `value` is written to `CMD` and the reset input is asserted before the command has finished
  (R350, U7). -/
  | cutCommand (value : Word)
  deriving DecidableEq, Repr

/-- Host data memory (R60): address and byte, addresses strictly rising, no entry equal to what an
unlisted address reads as (`Memory.wf`). -/
abbrev Memory := List Host.Cell

/-- The state of one core, of the host memory it reaches, and of the host's side of its port. -/
structure State where
  /-- `ALG` (R32). -/
  alg : Alg
  /-- `KBITS` (R33). -/
  kbits : BitVec 10
  /-- `KPAD` (R33). -/
  kpad : KPad
  /-- `OUTBITS` (R34). -/
  outbits : Word
  /-- `H[0..49]` (R25). -/
  h : Vector Word 50
  /-- `BUF[0..167]` (R29). -/
  buf : Vector Byte 168
  /-- `BUFLEN` (R29). -/
  buflen : BitVec 8
  /-- `TOTAL` (R31). -/
  total : Dword
  /-- `FIN` (R39). -/
  fin : Bool
  /-- `ERR` (R38, R311). -/
  err : Err
  /-- `ERRCMD` (R39, R315). -/
  errcmd : Word
  /-- `CMD` (R44). -/
  cmd : Word
  /-- `ARG_OUTBITS` (R41). -/
  argOutbits : Word
  /-- `SRC_ADDR`, address bits 31..0 (R41). -/
  srcAddr : Word
  /-- `SRC_ADDR_HI`, address bits above 31 (R96). -/
  srcAddrHi : Word
  /-- `SRC_OFF` (R41). -/
  srcOff : Word
  /-- `SRC_CNT` (R41). -/
  srcCnt : Word
  /-- `DST_ADDR`, address bits 31..0 (R41). -/
  dstAddr : Word
  /-- `DST_ADDR_HI`, address bits above 31 (R96). -/
  dstAddrHi : Word
  /-- `DST_LEN` (R41). -/
  dstLen : Word
  /-- Host data memory (R60). -/
  mem : Memory
  /-- The platform's parameters, which no step changes (R12; log entry 3). -/
  plat : Platform
  /-- MODEL'S OWN: the host's accesses still to come, oldest first (log entry 1). -/
  pending : List HostOp
  /-- MODEL'S OWN: what the last register read returned (log entry 2). -/
  rdata : Word
  /-- MODEL'S OWN: the core's accesses to host memory, oldest first (R68; log entry 13). -/
  trace : List MemEvent
  /-- MODEL'S OWN: how many free values have been drawn (log entry 5). -/
  draws : Nat
  deriving DecidableEq, Repr

/-- Fifty unspecified words, draws `d` to `d + 49` (U1, U2, U5). -/
@[irreducible] def freshWords (d : Nat) : Vector Word 50 := Vector.ofFn fun i => Config.freeWord (d + i.val)

/-- 168 unspecified bytes, draws `d` to `d + 167` (U1). -/
@[irreducible] def freshBytes (d : Nat) : Vector Byte 168 := Vector.ofFn fun k => Config.freeByte (d + k.val)

/-- After hardware reset (R46, R350): `ALG = NONE`, every scalar and operand register 0, `H` and `BUF`
unspecified (free values, log entry 6); the default platform (log entry 3); nothing in memory (log
entry 8), nothing pending (log entry 1), nothing read (log entry 2) or traced (log entry 13). -/
def State.reset : State where
  alg := .none
  kbits := 0
  kpad := .keccak
  outbits := 0
  h := freshWords 0
  buf := freshBytes 50
  buflen := 0
  total := 0
  fin := false
  err := .none
  errcmd := 0
  cmd := 0
  argOutbits := 0
  srcAddr := 0
  srcAddrHi := 0
  srcOff := 0
  srcCnt := 0
  dstAddr := 0
  dstAddrHi := 0
  dstLen := 0
  mem := []
  plat := Platform.default
  pending := []
  rdata := 0
  trace := []
  draws := 218

/-- Why the machine stops with a fault. The spec's own errors are not faults: they are rejections,
which are next states (R315). -/
inductive Fault where
  /-- Raised by `hostStep` for a HOST store at an address at or above `2^AW`, which does not exist
  (R60; log entry 12). No command raises it (R70 rejects with `ERR_RANGE` instead). Safe. -/
  | noSuchAddress
  deriving DecidableEq, Repr

/-- What the model gives no meaning. -/
inductive Refusal where
  /-- Raised by an arm of `exec` that has no meaning yet. No arm is left so. Safe. -/
  | notModelled (mnemonic : String)
  /-- Raised by `hostStep` for a register access narrower than 32 bits or not at a multiple of 4
  (R98, U13: "a model refuses them"; log entry 10). Safe. -/
  | registerAccess
  /-- Raised by `hostStep` for an access at or above 0x400, which is not in the register file (R96;
  log entry 10). Safe. -/
  | outsideRegisterFile
  /-- Raised by UPDATE, DIGEST, XF.MD5, XF.SHA1, XF.SHA256 that pass every check of R322, and by a host
  store, when a byte of the range lies in a device region (R69, U14: refuse; log entry 11). Safe. -/
  | deviceRegion
  deriving DecidableEq, Repr

/-- The outcome of a step or a command. -/
abbrev Outcome := Host.Outcome State Fault Refusal

end Sys2Proof.Machine
end

