-- ==== Sys2Proof/Machine/Bits.lean ====
section
/-! DEFINITION. The bit-twiddling primitives (component 1, 40_primitives.md): pure functions, no state
(R132). Addition, and, or, xor and complement are those of `BitVec` (R121, R122). -/

namespace Sys2Proof.Machine

/-- Logical right shift (R123). -/
def shr32 (x : Word) (n : Nat) : Word := x >>> n

/-- Rotate left by `0 ≤ n ≤ 31` (R126); a `BitVec` shift by 32 gives 0, so `n = 0` is the identity. -/
def rotl32 (x : Word) (n : Nat) : Word := (x <<< n) ||| (x >>> (32 - n))

/-- Rotate right, in terms of rotate left (R126). -/
def rotr32 (x : Word) (n : Nat) : Word := rotl32 x ((32 - n) % 32)

/-- Rotate a lane left by `0 ≤ n ≤ 63` (R129); R272 allows the 64-bit form. -/
def rotl64 (x : Dword) (n : Nat) : Dword := (x <<< n) ||| (x >>> (64 - n))

/-- Byte `i` of a byte list. Every use is inside the list. -/
def byteAt (bs : List Byte) (i : Nat) : Byte := bs.getD i 0

/-- Little-endian load (R127). -/
def ld32le (bs : List Byte) (i : Nat) : Word :=
  BitVec.ofNat 32 ((byteAt bs i).toNat + 2 ^ 8 * (byteAt bs (i + 1)).toNat
    + 2 ^ 16 * (byteAt bs (i + 2)).toNat + 2 ^ 24 * (byteAt bs (i + 3)).toNat)

/-- Big-endian load (R128). -/
def ld32be (bs : List Byte) (i : Nat) : Word :=
  BitVec.ofNat 32 (2 ^ 24 * (byteAt bs i).toNat + 2 ^ 16 * (byteAt bs (i + 1)).toNat
    + 2 ^ 8 * (byteAt bs (i + 2)).toNat + (byteAt bs (i + 3)).toNat)

/-- Little-endian store of a word (R130). -/
def st32le (v : Word) : List Byte :=
  [v.extractLsb' 0 8, v.extractLsb' 8 8, v.extractLsb' 16 8, v.extractLsb' 24 8]

/-- Big-endian store of a word (R130). -/
def st32be (v : Word) : List Byte :=
  [v.extractLsb' 24 8, v.extractLsb' 16 8, v.extractLsb' 8 8, v.extractLsb' 0 8]

/-- Little-endian store of a dword (R131). -/
def st64le (v : Dword) : List Byte :=
  [v.extractLsb' 0 8, v.extractLsb' 8 8, v.extractLsb' 16 8, v.extractLsb' 24 8,
   v.extractLsb' 32 8, v.extractLsb' 40 8, v.extractLsb' 48 8, v.extractLsb' 56 8]

/-- Big-endian store of a dword (R131). -/
def st64be (v : Dword) : List Byte :=
  [v.extractLsb' 56 8, v.extractLsb' 48 8, v.extractLsb' 40 8, v.extractLsb' 32 8,
   v.extractLsb' 24 8, v.extractLsb' 16 8, v.extractLsb' 8 8, v.extractLsb' 0 8]

end Sys2Proof.Machine
end

