-- ==== Sys2Proof/Machine/Ops.lean ====
section
/-! DEFINITION. The shared operations: host data memory (20_memory.md), whole and part copies of `H` and
`BUF`, and rejection, which is this hardware's exception (60_exceptions.md R315 to R317). -/

namespace Sys2Proof.Machine

/-! ### Host data memory (R60, R68, R69) -/

/-- What a byte that nothing has stored reads as. DESIGN CHOICE, unsafe: the spec does not say (log
entry 8). -/
def Memory.fill : Byte := 0

/-- The canonical form: addresses strictly rising, no entry equal to `Memory.fill`. -/
def Memory.wf (m : Memory) : Bool :=
  decide (m.Pairwise fun p q => p.1 < q.1) && m.all fun p => p.2 != Memory.fill

/-- `MemRead(a, 1)` (R16, R69): the last value stored. -/
def Memory.read : Memory → Nat → Byte
  | [], _ => Memory.fill
  | (k, v) :: m, a => if k = a then v else Memory.read m a

/-- `MemWrite(a, 1, v)` (R16); storing `Memory.fill` removes the entry, so that equal memories are
equal lists. -/
def Memory.write : Memory → Nat → Byte → Memory
  | [], a, v => if v = Memory.fill then [] else [(a, v)]
  | (k, w) :: m, a, v =>
    if a < k then (if v = Memory.fill then (k, w) :: m else (a, v) :: (k, w) :: m)
    else if a = k then (if v = Memory.fill then m else (a, v) :: m)
    else (k, w) :: Memory.write m a v

/-- `n` bytes upward from `a`, lowest address first (R16). -/
def Memory.readBytes (m : Memory) (a n : Nat) : List Byte :=
  (List.range n).map fun k => m.read (a + k)

/-- A list of bytes stored upward from `a`, lowest address first (R16, R68). -/
def Memory.writeBytes : Memory → Nat → List Byte → Memory
  | m, _, [] => m
  | m, a, v :: vs => Memory.writeBytes (m.write a v) (a + 1) vs

/-- One read event per byte in ascending address order (R68). -/
def readEvents (a : Nat) (vs : List Byte) : List MemEvent :=
  vs.zipIdx.map fun p => .read (a + p.2) p.1

/-- One write event per byte in ascending address order (R68). -/
def writeEvents (a : Nat) (vs : List Byte) : List MemEvent :=
  vs.zipIdx.map fun p => .write (a + p.2) p.1

/-! ### `H` and `BUF` -/

/-- `H[i]`; every use has `i < 50`. -/
def wordAt (h : Vector Word 50) (i : Nat) : Word := if hi : i < 50 then h[i] else 0

/-- `H[0..n-1]`. -/
@[irreducible] def firstWords (n : Nat) (hn : n ≤ 50) (h : Vector Word 50) : Vector Word n :=
  Vector.ofFn fun i => h[i.val]

/-- `H[0..n-1] <- ws`; the other words keep their values. -/
@[irreducible] def storeWords {n : Nat} (h : Vector Word 50) (ws : Vector Word n) : Vector Word 50 :=
  Vector.ofFn fun i => if hi : i.val < n then ws[i.val] else h[i.val]

/-- `for k in lo .. hi - 1: BUF[k] <- v`. -/
@[irreducible] def bufFill (buf : Vector Byte 168) (lo hi : Nat) (v : Byte) : Vector Byte 168 :=
  Vector.ofFn fun k => if lo ≤ k.val ∧ k.val < hi then v else buf[k.val]

/-- `for k in 0 .. len(vs) - 1: BUF[at + k] <- vs[k]`. -/
@[irreducible] def bufPut (buf : Vector Byte 168) (start : Nat) (vs : List Byte) : Vector Byte 168 :=
  Vector.ofFn fun k =>
    if start ≤ k.val ∧ k.val < start + vs.length then byteAt vs (k.val - start) else buf[k.val]

/-- `BUF[at] <- BUF[at] ^ v`. -/
@[irreducible] def bufXor (buf : Vector Byte 168) (at_ : Nat) (v : Byte) : Vector Byte 168 :=
  Vector.ofFn fun k => if k.val = at_ then buf[k.val] ^^^ v else buf[k.val]

/-! ### Rejection: `raise`, the gate and the order of checks -/

/-- `raise E(cmd)` (R315), the taking of this hardware's exception: `ERR` and `ERRCMD` are written if
`ERR = 0`, and nothing else changes. -/
def raise (e : Err) (c : Word) (s : State) : State :=
  { s with
    err := if s.err = .none then e else s.err
    errcmd := if s.err = .none then c else s.errcmd }

/-- The return from it (R317): only a successful INIT.* does this. -/
def clearError (s : State) : State := { s with err := .none, errcmd := 0 }

/-- One check of a command: go on if `ok`, else end it by `raise` (R315, R322). The word recorded is
the command's own (log entry 17). -/
def check (ok : Bool) (e : Err) (i : Instr) (s : State) (go : Outcome) : Outcome :=
  if ok then go else .next (raise e (encode i) s)

/-- The two common gates of every command but INIT.*: ignored while `ERR ≠ 0` (R316), rejected while
there is no instance (R313). -/
def commonGates (i : Instr) (s : State) (go : Outcome) : Outcome :=
  if s.err = .none then check (decide (s.alg ≠ .none)) .notCreated i s go else .next s

end Sys2Proof.Machine
end

