-- ==== Sys2Proof/Machine/Operands.lean ====
section
/-! DEFINITION. The operand forms: the addresses a command takes from the operand registers
(10_state.md R41), the checks made on them (20_memory.md R70), the legality of parameters
(30_encoding.md R104), and the register file's offsets (R96). -/

namespace Sys2Proof.Machine

/-! ### Addresses in host data memory -/

/-- `SRC_ADDR + SRC_OFF`, "computed as unbounded non-negative integers" (R70); with `AW > 32` the
address is a pair of words (R41, R96). -/
def srcBase (s : State) : Nat := s.srcAddr.toNat + 2 ^ 32 * s.srcAddrHi.toNat + s.srcOff.toNat

/-- `DST_ADDR` (R70, R96). -/
def dstBase (s : State) : Nat := s.dstAddr.toNat + 2 ^ 32 * s.dstAddrHi.toNat

/-- Whether an address lies in a region. -/
def inRegion (r : Region) (a : Nat) : Bool := decide (r.base ≤ a) && decide (a < r.base + r.size)

/-- Whether an address lies in none of the regions. -/
def outsideAll (rs : List Region) (a : Nat) : Bool := rs.all fun r => !inRegion r a

/-- `HostReadable(a)` (R12). -/
def hostReadable (p : Platform) (a : Nat) : Bool := outsideAll p.unreadable a

/-- `HostWritable(a)` (R12). -/
def hostWritable (p : Platform) (a : Nat) : Bool := outsideAll p.unwritable a

/-- `a` is ordinary memory, not a device region (R69). -/
def notDevice (p : Platform) (a : Nat) : Bool := outsideAll p.devices a

/-- Every address of `[base, base + n)` satisfies `p`. -/
def everyAddress (p : Nat → Bool) (base n : Nat) : Bool := (List.range n).all fun k => p (base + k)

/-- The range check of R70: with `n = 0` no check is made. -/
def rangeOk (s : State) (base n : Nat) : Bool := decide (n = 0) || decide (base + n ≤ 2 ^ s.plat.aw)

/-- The checks of a memory range, in the order of R322: `ERR_RANGE`, then `ERR_BUS` by the predicate
`reach`; a range that passes both and touches a device region is refused (R69, U14; log entry 11). -/
def checkMemory (reach : Nat → Bool) (base n : Nat) (i : Instr) (s : State) (go : Outcome) : Outcome :=
  check (rangeOk s base n) .range i s <|
  check (everyAddress reach base n) .bus i s <|
  if everyAddress (notDevice s.plat) base n then go else .refused .deviceRegion

/-- The checks of the bytes a command reads (R70). -/
def checkSource (n : Nat) (i : Instr) (s : State) (go : Outcome) : Outcome :=
  checkMemory (hostReadable s.plat) (srcBase s) n i s go

/-- The checks of the bytes DIGEST writes (R70). -/
def checkDestination (n : Nat) (i : Instr) (s : State) (go : Outcome) : Outcome :=
  checkMemory (hostWritable s.plat) (dstBase s) n i s go

/-! ### Parameters of INIT.KECCAK -/

/-- `KBITS_LEGAL` (R12, R33). -/
def kbitsLegal (kbits : Nat) : Bool := [128, 224, 256, 384, 512].contains kbits

/-- Whether `kpad` takes its output length from `ARG_OUTBITS` (R34). -/
def variableOutput : KPad → Bool
  | .keccak => false
  | .sha3 => false
  | .shake => true
  | .cshake => true

/-- A requested output length is whole bytes and at least one (R104). -/
def outbitsLegal (w : Word) : Bool := decide (w.toNat % 8 = 0) && decide (8 ≤ w.toNat)

/-- The parameter check of INIT.KECCAK (R104). -/
def paramsLegal (kpad : KPad) (kbits : Nat) (argOutbits : Word) : Bool :=
  kbitsLegal kbits && (!variableOutput kpad || outbitsLegal argOutbits)

/-! ### The register file's offsets -/

/-- The registers of the map (R96). -/
inductive Reg where
  | cmd
  | status
  | errcmd
  | cfg
  | argOutbits
  | srcAddr
  | srcOff
  | srcCnt
  | dstAddr
  | dstLen
  | chunk
  | dsize
  | buflen
  | totalLo
  | totalHi
  | outbits
  | srcAddrHi
  | dstAddrHi
  /-- `HV[i]` -/
  | hv (i : Nat)
  /-- `BUFW[k]` -/
  | bufw (k : Nat)
  /-- A reserved offset: reads 0, ignores writes. -/
  | reserved
  deriving DecidableEq, Repr

/-- The registers at 0x000 to 0x044, by word index (R96). -/
def controlReg : Nat → Reg
  | 0 => .cmd
  | 1 => .status
  | 2 => .errcmd
  | 3 => .cfg
  | 4 => .argOutbits
  | 5 => .srcAddr
  | 6 => .srcOff
  | 7 => .srcCnt
  | 8 => .dstAddr
  | 9 => .dstLen
  | 10 => .chunk
  | 11 => .dsize
  | 12 => .buflen
  | 13 => .totalLo
  | 14 => .totalHi
  | 15 => .outbits
  | 16 => .srcAddrHi
  | 17 => .dstAddrHi
  | _ => .reserved

/-- The register at a byte offset that is a multiple of 4 below 0x400 (R96). -/
def regAt (offset : Nat) : Reg :=
  if offset < 0x100 then controlReg (offset / 4)
  else if offset < 0x1C8 then .hv ((offset - 0x100) / 4)
  else if offset < 0x200 then .reserved
  else if offset < 0x2A8 then .bufw ((offset - 0x200) / 4)
  else .reserved

/-- The only form of a register access (R98): 4 bytes at a multiple of 4. -/
def accessFormOk (offset width : Nat) : Bool := decide (width = 4) && decide (offset % 4 = 0)

/-- The implemented bits of address bits 31..0: those below `AW` (R41, R97). -/
def addrMaskLo (p : Platform) : Word := BitVec.ofNat 32 (2 ^ min p.aw 32 - 1)

/-- The implemented bits of address bits 63..32: none when `AW ≤ 32` (R96, R97). -/
def addrMaskHi (p : Platform) : Word := BitVec.ofNat 32 (2 ^ (p.aw - 32) - 1)

end Sys2Proof.Machine
end

