-- ==== Sys2Proof/Machine/Flags.lean ====
section
/-! DEFINITION. The flags, the derived registers and the views: `STATUS` with `ERR`, `CREATED` and `FIN`
(10_state.md R38; the hardware has no other flag), `CFG`, `CHUNK`, `DSIZE`, and `HV`, `BUFW`
(30_encoding.md R99). -/

namespace Sys2Proof.Machine

/-- The number of an algorithm (R32). -/
def algCode : Alg → Nat
  | .none => 0
  | .md5 => 1
  | .sha1 => 2
  | .sha256 => 3
  | .keccak => 4

/-- The number of an error (R311). -/
def errCode : Err → Nat
  | .none => 0
  | .illegalCmd => 1
  | .notCreated => 2
  | .finalized => 3
  | .bufSize => 4
  | .range => 5
  | .param => 6
  | .alg => 7
  | .bus => 8

/-- `CREATED`, "1 exactly when `ALG ≠ NONE`" (R38). -/
def created (s : State) : Bool := decide (s.alg ≠ .none)

/-- `STATUS` (R38): `ERR` in bits 7..0, `CREATED` in bit 8, `FIN` in bit 9, the rest 0. -/
def statusWord (s : State) : Word :=
  BitVec.ofNat 32 (errCode s.err + (if created s then 2 ^ 8 else 0) + (if s.fin then 2 ^ 9 else 0))

/-- `CFG` (R37): `ALG` in bits 23..20, `KPAD` in 19..18, `KBITS` in 9..0, the rest 0. -/
def cfgWord (s : State) : Word :=
  BitVec.ofNat 32 (algCode s.alg * 2 ^ 20 + kpadCode s.kpad * 2 ^ 18 + s.kbits.toNat)

/-- `CHUNK` of a configuration (R35, R281; 90_conflicts.md C2). -/
def chunkOf (a : Alg) (kbits : BitVec 10) : Nat :=
  match a with
  | .none => 0
  | .md5 => 64
  | .sha1 => 64
  | .sha256 => 64
  | .keccak => (1600 - 2 * kbits.toNat) / 8

/-- `CHUNK` (R35). -/
def chunk (s : State) : Nat := chunkOf s.alg s.kbits

/-- `DSIZE` of a configuration (R36). -/
def dsizeOf (a : Alg) (outbits : Word) : Nat :=
  match a with
  | .none => 0
  | .md5 => 16
  | .sha1 => 20
  | .sha256 => 32
  | .keccak => outbits.toNat / 8

/-- `DSIZE` (R36). -/
def dsize (s : State) : Nat := dsizeOf s.alg s.outbits

/-- How many words of `H` belong to the instance (R23). -/
def liveCount : Alg → Nat
  | .none => 0
  | .md5 => 4
  | .sha1 => 5
  | .sha256 => 8
  | .keccak => 50

/-- Byte `k` of `BUF` as `BUFW` shows it: 0 at or above `BUFLEN` (R99). -/
def visibleByte (s : State) (k : Nat) : Byte :=
  if hk : k < 168 then (if k < s.buflen.toNat then s.buf[k] else 0) else 0

/-- `BUFW[k]` (R65, R99): four buffer bytes, the lowest index in bits 7..0. -/
def bufWord (s : State) (k : Nat) : Word :=
  BitVec.ofNat 32 ((visibleByte s (4 * k)).toNat + 2 ^ 8 * (visibleByte s (4 * k + 1)).toNat
    + 2 ^ 16 * (visibleByte s (4 * k + 2)).toNat + 2 ^ 24 * (visibleByte s (4 * k + 3)).toNat)

/-- `HV[i]` (R27, R99): `H[i]` when word `i` is live, else a draw. -/
def hvWord (s : State) (i : Nat) : Word :=
  if i < liveCount s.alg then wordAt s.h i else Config.freeWord s.draws

/-- How many values a read of `HV[i]` draws (log entry 7). -/
def hvDraws (s : State) (i : Nat) : Nat := if i < liveCount s.alg then 0 else 1

end Sys2Proof.Machine
end

