-- ==== Sys2Proof/Machine/Keccak.lean ====
section
/-! DEFINITION. The permutation `KECCAK_F` and the sponge's absorb, padding bytes and squeeze (component 6,
45_keccak.md), on 25 lanes of 64 bits as R272 allows, with the conversion of R261 at the edges. -/

namespace Sys2Proof.Machine

/-- The 25 lanes; lane `x + 5 * y` is `A[x, y]` (R263). -/
abbrev Lanes := Vector Dword 25

/-- The round constants `RC` (R264). -/
def keccakRC : List Dword :=
  [0x0000000000000001#64, 0x0000000000008082#64, 0x800000000000808A#64,
   0x8000000080008000#64, 0x000000000000808B#64, 0x0000000080000001#64,
   0x8000000080008081#64, 0x8000000000008009#64, 0x000000000000008A#64,
   0x0000000000000088#64, 0x0000000080008009#64, 0x000000008000000A#64,
   0x000000008000808B#64, 0x800000000000008B#64, 0x8000000000008089#64,
   0x8000000000008003#64, 0x8000000000008002#64, 0x8000000000000080#64,
   0x000000000000800A#64, 0x800000008000000A#64, 0x8000000080008081#64,
   0x8000000000008080#64, 0x0000000080000001#64, 0x8000000080008008#64]

/-- The rotation offsets `RHO` (R265). -/
def keccakRho : List Nat :=
  [0, 1, 62, 28, 27,
   36, 44, 6, 55, 20,
   3, 10, 43, 25, 39,
   41, 45, 15, 21, 8,
   18, 2, 61, 56, 14]

/-- `PISRC`: the lane that moves to destination `d` (R266). -/
def keccakPiSrc : List Nat :=
  [0, 6, 12, 18, 24,
   3, 9, 10, 16, 22,
   1, 7, 13, 19, 20,
   4, 5, 11, 17, 23,
   2, 8, 14, 15, 21]

/-- Lane `i`; every use has `i < 25`. -/
def laneAt (l : Lanes) (i : Nat) : Dword := if hi : i < 25 then l[i] else 0

/-- Words to lanes: word `2i` is the low half of lane `i`, word `2i + 1` the high half (R261). -/
@[irreducible] def lanesOfWords (h : Vector Word 50) : Lanes :=
  Vector.ofFn fun i => BitVec.ofNat 64 (h[2 * i.val].toNat + 2 ^ 32 * h[2 * i.val + 1].toNat)

/-- Lanes to words (R261, R270). -/
@[irreducible] def wordsOfLanes (l : Lanes) : Vector Word 50 :=
  Vector.ofFn fun k => (l[k.val / 2]).extractLsb' (32 * (k.val % 2)) 32

/-- The column parities `C` of theta (R267). -/
def thetaC (l : Lanes) (x : Nat) : Dword :=
  laneAt l x ^^^ laneAt l (x + 5) ^^^ laneAt l (x + 10) ^^^ laneAt l (x + 15) ^^^ laneAt l (x + 20)

/-- The values `D` of theta (R267). -/
def thetaD (l : Lanes) (x : Nat) : Dword := thetaC l ((x + 4) % 5) ^^^ rotl64 (thetaC l ((x + 1) % 5)) 1

/-- Theta (R267). -/
@[irreducible] def theta (l : Lanes) : Lanes := Vector.ofFn fun i => l[i.val] ^^^ thetaD l (i.val % 5)

/-- Rho and pi (R268): `PIROT[d] = RHO[PISRC[d]]` (R266). -/
@[irreducible] def rhoPi (l : Lanes) : Lanes :=
  Vector.ofFn fun d =>
    rotl64 (laneAt l (keccakPiSrc.getD d.val 0)) (keccakRho.getD (keccakPiSrc.getD d.val 0) 0)

/-- Chi (R269), along a row. -/
@[irreducible] def chi (l : Lanes) : Lanes :=
  Vector.ofFn fun i =>
    let row := 5 * (i.val / 5)
    l[i.val] ^^^ (~~~laneAt l (row + (i.val + 1) % 5) &&& laneAt l (row + (i.val + 2) % 5))

/-- Iota (R271). -/
@[irreducible] def iota (r : Nat) (l : Lanes) : Lanes :=
  Vector.ofFn fun i => if i.val = 0 then l[i.val] ^^^ keccakRC.getD r 0 else l[i.val]

/-- Round `r` (R270). -/
def keccakRound (l : Lanes) (r : Nat) : Lanes := iota r (chi (rhoPi (theta l)))

/-- The lanes after the first `n` rounds. -/
def keccakRounds (n : Nat) (l : Lanes) : Lanes := (List.range n).foldl keccakRound l

/-- `KECCAK_F` (R270): 24 rounds, no feed-forward. -/
def keccakF (h : Vector Word 50) : Vector Word 50 := wordsOfLanes (keccakRounds 24 (lanesOfWords h))

/-- XOR a block of `n` bytes into the first words (R280). -/
@[irreducible] def xorBlock (n : Nat) (h : Vector Word 50) (block : List Byte) : Vector Word 50 :=
  Vector.ofFn fun k => if k.val < n / 4 then h[k.val] ^^^ ld32le block (4 * k.val) else h[k.val]

/-- `PADBYTE` (R283). -/
def padByte : KPad → Byte
  | .keccak => 0x01#8
  | .sha3 => 0x06#8
  | .shake => 0x1F#8
  | .cshake => 0x04#8

/-- Byte `k` of the state, low byte first (R64, R288). -/
def stateByte (h : Vector Word 50) (k : Nat) : Byte := (wordAt h (k / 4) >>> (8 * (k % 4))).setWidth 8

/-- `SQUEEZE()` (R288): `n` more bytes, the next at position `k` of a squeeze block of `rate` bytes; it
permutes only when another byte is needed (R289 (c)). -/
def squeeze (rate : Nat) : Nat → Nat → Vector Word 50 → List Byte
  | 0, _, _ => []
  | n + 1, k, h =>
    if k = rate then stateByte (keccakF h) 0 :: squeeze rate n 1 (keccakF h)
    else stateByte h k :: squeeze rate n (k + 1) h

end Sys2Proof.Machine
end

