-- ==== Sys2Proof/Machine/Md5.lean ====
section
/-! DEFINITION. The MD5 transform `MD5_XF` (component 3, 42_md5.md). -/

namespace Sys2Proof.Machine

/-- The working variables of MD5 (R25, R190). -/
structure Md5Vars where
  a : Word
  b : Word
  c : Word
  d : Word
  deriving DecidableEq, Repr

/-- The constant table `T` (R183, listed in R196). -/
def md5T : List Word :=
  [0xD76AA478#32, 0xE8C7B756#32, 0x242070DB#32, 0xC1BDCEEE#32,
   0xF57C0FAF#32, 0x4787C62A#32, 0xA8304613#32, 0xFD469501#32,
   0x698098D8#32, 0x8B44F7AF#32, 0xFFFF5BB1#32, 0x895CD7BE#32,
   0x6B901122#32, 0xFD987193#32, 0xA679438E#32, 0x49B40821#32]
  ++ [0xF61E2562#32, 0xC040B340#32, 0x265E5A51#32, 0xE9B6C7AA#32,
   0xD62F105D#32, 0x02441453#32, 0xD8A1E681#32, 0xE7D3FBC8#32,
   0x21E1CDE6#32, 0xC33707D6#32, 0xF4D50D87#32, 0x455A14ED#32,
   0xA9E3E905#32, 0xFCEFA3F8#32, 0x676F02D9#32, 0x8D2A4C8A#32]
  ++ [0xFFFA3942#32, 0x8771F681#32, 0x6D9D6122#32, 0xFDE5380C#32,
   0xA4BEEA44#32, 0x4BDECFA9#32, 0xF6BB4B60#32, 0xBEBFBC70#32,
   0x289B7EC6#32, 0xEAA127FA#32, 0xD4EF3085#32, 0x04881D05#32,
   0xD9D4D039#32, 0xE6DB99E5#32, 0x1FA27CF8#32, 0xC4AC5665#32]
  ++ [0xF4292244#32, 0x432AFF97#32, 0xAB9423A7#32, 0xFC93A039#32,
   0x655B59C3#32, 0x8F0CCC92#32, 0xFFEFF47D#32, 0x85845DD1#32,
   0x6FA87E4F#32, 0xFE2CE6E0#32, 0xA3014314#32, 0x4E0811A1#32,
   0xF7537E82#32, 0xBD3AF235#32, 0x2AD7D2BB#32, 0xEB86D391#32]

/-- The rotate amounts (R184). -/
def md5S (j : Nat) : Nat :=
  match j / 16 with
  | 0 => [7, 12, 17, 22].getD (j % 4) 0
  | 1 => [5, 9, 14, 20].getD (j % 4) 0
  | 2 => [4, 11, 16, 23].getD (j % 4) 0
  | _ => [6, 10, 15, 21].getD (j % 4) 0

/-- The message-word index (R185). -/
def md5G (j : Nat) : Nat :=
  match j / 16 with
  | 0 => j
  | 1 => (5 * j + 1) % 16
  | 2 => (3 * j + 5) % 16
  | _ => 7 * j % 16

/-- The function of step `j` (R186 to R189). -/
def md5F (j : Nat) (b c d : Word) : Word :=
  match j / 16 with
  | 0 => (b &&& c) ||| (~~~b &&& d)
  | 1 => (b &&& d) ||| (c &&& ~~~d)
  | 2 => b ^^^ c ^^^ d
  | _ => c ^^^ (b ||| ~~~d)

/-- Step `j` on block words `X` (R190, R191). -/
def md5Step (X : Nat → Word) (v : Md5Vars) (j : Nat) : Md5Vars :=
  let t := v.a + md5F j v.b v.c v.d + X (md5G j) + md5T.getD j 0
  { a := v.d, b := v.b + rotl32 t (md5S j), c := v.b, d := v.c }

/-- The working variables after the first `n` steps. -/
def md5Vars (hin : Vector Word 4) (block : List Byte) (n : Nat) : Md5Vars :=
  (List.range n).foldl (md5Step fun i => ld32le block (4 * i))
    { a := hin[0], b := hin[1], c := hin[2], d := hin[3] }

/-- `MD5_XF` (R190), with the feed-forward of R192. -/
def md5Xf (hin : Vector Word 4) (block : List Byte) : Vector Word 4 :=
  let v := md5Vars hin block 64
  #v[hin[0] + v.a, hin[1] + v.b, hin[2] + v.c, hin[3] + v.d]

end Sys2Proof.Machine
end

