-- ==== Sys2Proof/Machine/Sha1.lean ====
section
/-! DEFINITION. The SHA-1 transform `SHA1_XF` (component 4, 43_sha1.md). -/

namespace Sys2Proof.Machine

/-- The working variables of SHA-1 (R25, R217). -/
structure Sha1Vars where
  a : Word
  b : Word
  c : Word
  d : Word
  e : Word
  deriving DecidableEq, Repr

/-- The round constant of step `j` (R213). -/
def sha1K (j : Nat) : Word :=
  match j / 20 with
  | 0 => 0x5A827999#32
  | 1 => 0x6ED9EBA1#32
  | 2 => 0x8F1BBCDC#32
  | _ => 0xCA62C1D6#32

/-- The boolean function of step `j` (R215, R216, R218). -/
def sha1F (j : Nat) (b c d : Word) : Word :=
  match j / 20 with
  | 0 => (b &&& c) ||| (~~~b &&& d)
  | 1 => b ^^^ c ^^^ d
  | 2 => (b &&& c) ||| (b &&& d) ||| (c &&& d)
  | _ => b ^^^ c ^^^ d

/-- `n` more schedule words before those of `ws`, which lists the newest first: word `j` is made of
words `j-3`, `j-8`, `j-14`, `j-16` (R214). -/
def sha1Extend : Nat → List Word → List Word
  | 0, ws => ws
  | n + 1, ws =>
    sha1Extend n (rotl32 (ws.getD 2 0 ^^^ ws.getD 7 0 ^^^ ws.getD 13 0 ^^^ ws.getD 15 0) 1 :: ws)

/-- The schedule `w[0..79]`, oldest first (R212, R214). -/
def sha1Schedule (block : List Byte) : List Word :=
  (sha1Extend 64 ((List.range 16).map fun i => ld32be block (4 * i)).reverse).reverse

/-- Step `j` with schedule `w` (R217, R219). -/
def sha1Step (w : List Word) (v : Sha1Vars) (j : Nat) : Sha1Vars :=
  let temp := rotl32 v.a 5 + v.e + sha1F j v.b v.c v.d + sha1K j + w.getD j 0
  { a := temp, b := v.a, c := rotl32 v.b 30, d := v.c, e := v.d }

/-- The working variables after the first `n` steps. -/
def sha1Vars (hin : Vector Word 5) (block : List Byte) (n : Nat) : Sha1Vars :=
  (List.range n).foldl (sha1Step (sha1Schedule block))
    { a := hin[0], b := hin[1], c := hin[2], d := hin[3], e := hin[4] }

/-- `SHA1_XF` (R217). -/
def sha1Xf (hin : Vector Word 5) (block : List Byte) : Vector Word 5 :=
  let v := sha1Vars hin block 80
  #v[hin[0] + v.a, hin[1] + v.b, hin[2] + v.c, hin[3] + v.d, hin[4] + v.e]

end Sys2Proof.Machine
end

