-- ==== Sys2Proof/Machine/Sha256.lean ====
section
/-! DEFINITION. The SHA-256 transform `SHA256_XF` (component 5, 44_sha256.md). -/

namespace Sys2Proof.Machine

/-- The working variables of SHA-256 (R25, R240). -/
structure Sha256Vars where
  a : Word
  b : Word
  c : Word
  d : Word
  e : Word
  f : Word
  g : Word
  h : Word
  deriving DecidableEq, Repr

/-- The round constants `K` (R233, listed in R246). -/
def sha256K : List Word :=
  [0x428A2F98#32, 0x71374491#32, 0xB5C0FBCF#32, 0xE9B5DBA5#32,
   0x3956C25B#32, 0x59F111F1#32, 0x923F82A4#32, 0xAB1C5ED5#32,
   0xD807AA98#32, 0x12835B01#32, 0x243185BE#32, 0x550C7DC3#32,
   0x72BE5D74#32, 0x80DEB1FE#32, 0x9BDC06A7#32, 0xC19BF174#32]
  ++ [0xE49B69C1#32, 0xEFBE4786#32, 0x0FC19DC6#32, 0x240CA1CC#32,
   0x2DE92C6F#32, 0x4A7484AA#32, 0x5CB0A9DC#32, 0x76F988DA#32,
   0x983E5152#32, 0xA831C66D#32, 0xB00327C8#32, 0xBF597FC7#32,
   0xC6E00BF3#32, 0xD5A79147#32, 0x06CA6351#32, 0x14292967#32]
  ++ [0x27B70A85#32, 0x2E1B2138#32, 0x4D2C6DFC#32, 0x53380D13#32,
   0x650A7354#32, 0x766A0ABB#32, 0x81C2C92E#32, 0x92722C85#32,
   0xA2BFE8A1#32, 0xA81A664B#32, 0xC24B8B70#32, 0xC76C51A3#32,
   0xD192E819#32, 0xD6990624#32, 0xF40E3585#32, 0x106AA070#32]
  ++ [0x19A4C116#32, 0x1E376C08#32, 0x2748774C#32, 0x34B0BCB5#32,
   0x391C0CB3#32, 0x4ED8AA4A#32, 0x5B9CCA4F#32, 0x682E6FF3#32,
   0x748F82EE#32, 0x78A5636F#32, 0x84C87814#32, 0x8CC70208#32,
   0x90BEFFFA#32, 0xA4506CEB#32, 0xBEF9A3F7#32, 0xC67178F2#32]

/-- Small sigma 0 (R234). -/
def smallSigma0 (x : Word) : Word := rotr32 x 7 ^^^ rotr32 x 18 ^^^ shr32 x 3

/-- Small sigma 1 (R235). -/
def smallSigma1 (x : Word) : Word := rotr32 x 17 ^^^ rotr32 x 19 ^^^ shr32 x 10

/-- Big sigma 0 (R237). -/
def bigSigma0 (a : Word) : Word := rotr32 a 2 ^^^ rotr32 a 13 ^^^ rotr32 a 22

/-- Big sigma 1 (R238). -/
def bigSigma1 (e : Word) : Word := rotr32 e 6 ^^^ rotr32 e 11 ^^^ rotr32 e 25

/-- Choose (R239). -/
def choose (e f g : Word) : Word := (e &&& f) ^^^ (~~~e &&& g)

/-- Majority (R241). -/
def majority (a b c : Word) : Word := (a &&& b) ^^^ (a &&& c) ^^^ (b &&& c)

/-- `n` more schedule words before those of `ws`, which lists the newest first: word `j` is made of
words `j-16`, `j-15`, `j-7`, `j-2` (R236). -/
def sha256Extend : Nat → List Word → List Word
  | 0, ws => ws
  | n + 1, ws =>
    sha256Extend n
      ((ws.getD 15 0 + smallSigma0 (ws.getD 14 0) + ws.getD 6 0 + smallSigma1 (ws.getD 1 0)) :: ws)

/-- The schedule `w[0..63]`, oldest first (R232, R236). -/
def sha256Schedule (block : List Byte) : List Word :=
  (sha256Extend 48 ((List.range 16).map fun i => ld32be block (4 * i)).reverse).reverse

/-- Step `j` with schedule `w` (R240, R242). -/
def sha256Step (w : List Word) (v : Sha256Vars) (j : Nat) : Sha256Vars :=
  let t1 := v.h + bigSigma1 v.e + choose v.e v.f v.g + sha256K.getD j 0 + w.getD j 0
  let t2 := bigSigma0 v.a + majority v.a v.b v.c
  { a := t1 + t2, b := v.a, c := v.b, d := v.c, e := v.d + t1, f := v.e, g := v.f, h := v.g }

/-- The working variables after the first `n` steps. -/
def sha256Vars (hin : Vector Word 8) (block : List Byte) (n : Nat) : Sha256Vars :=
  (List.range n).foldl (sha256Step (sha256Schedule block))
    { a := hin[0], b := hin[1], c := hin[2], d := hin[3],
      e := hin[4], f := hin[5], g := hin[6], h := hin[7] }

/-- `SHA256_XF` (R240). -/
def sha256Xf (hin : Vector Word 8) (block : List Byte) : Vector Word 8 :=
  let v := sha256Vars hin block 64
  #v[hin[0] + v.a, hin[1] + v.b, hin[2] + v.c, hin[3] + v.d,
     hin[4] + v.e, hin[5] + v.f, hin[6] + v.g, hin[7] + v.h]

end Sys2Proof.Machine
end

