-- ==== Sys2Proof/Machine/Engine.lean ====
section
/-! DEFINITION. The streaming buffer engine (component 2, 41_stream_engine.md): the operations that the
commands of the engine share, whatever the algorithm (R95). -/

namespace Sys2Proof.Machine

/-! ### Initial vectors and instances -/

/-- Word `i` of the initial vector (R28). -/
def initialWord (a : Alg) (i : Nat) : Word :=
  match a with
  | .none => 0
  | .md5 => [0x67452301#32, 0xEFCDAB89#32, 0x98BADCFE#32, 0x10325476#32].getD i 0
  | .sha1 => [0x67452301#32, 0xEFCDAB89#32, 0x98BADCFE#32, 0x10325476#32, 0xC3D2E1F0#32].getD i 0
  | .sha256 =>
    [0x6A09E667#32, 0xBB67AE85#32, 0x3C6EF372#32, 0xA54FF53A#32,
     0x510E527F#32, 0x9B05688C#32, 0x1F83D9AB#32, 0x5BE0CD19#32].getD i 0
  | .keccak => 0

/-- The live words of `H` to the initial vector; the others as `rest` has them. -/
@[irreducible] def withInitial (a : Alg) (rest : Vector Word 50) : Vector Word 50 :=
  Vector.ofFn fun i => if i.val < liveCount a then initialWord a i.val else rest[i.val]

/-- The state change of RESET and of the end of DIGEST (R145, R171). -/
def instanceReset (s : State) : State :=
  { s with h := withInitial s.alg s.h, buflen := 0, total := 0, fin := false }

/-- The state change of a successful INIT.* (R141 to R144, R317): the configuration, the live words at
the initial vector, the dead ones unspecified (log entry 7), and no error. -/
def createInstance (a : Alg) (kbits : BitVec 10) (kpad : KPad) (outbits : Word) (s : State) : State :=
  clearError
    { s with
      alg := a, kbits := kbits, kpad := kpad, outbits := outbits
      h := withInitial a (freshWords s.draws), draws := s.draws + 50
      buflen := 0, total := 0, fin := false }

/-! ### `ABSORB()` and the buffer -/

/-- `ABSORB()` on the words `h` and a full block (R150). -/
def absorbBlock (a : Alg) (n : Nat) (h : Vector Word 50) (block : List Byte) : Vector Word 50 :=
  match a with
  | .none => h
  | .md5 => storeWords h (md5Xf (firstWords 4 (by decide) h) block)
  | .sha1 => storeWords h (sha1Xf (firstWords 5 (by decide) h) block)
  | .sha256 => storeWords h (sha256Xf (firstWords 8 (by decide) h) block)
  | .keccak => keccakF (xorBlock n h block)

/-- `BUF[0..n-1]`. -/
def bufBlock (buf : Vector Byte 168) (n : Nat) : List Byte := buf.toList.take n

/-- `ABSORB()` (R150): it reads `BUF` and `H` and writes `H` only. -/
def absorb (s : State) : State :=
  { s with h := absorbBlock s.alg (chunk s) s.h (bufBlock s.buf (chunk s)) }

/-- One pass of UPDATE's loop (R146): append a byte, and absorb when the buffer is full. -/
def pushByte (s : State) (b : Byte) : State :=
  let buf := s.buf.setIfInBounds s.buflen.toNat b
  let full := decide ((s.buflen + 1).toNat = chunk s)
  { s with
    buf := buf
    buflen := if full then 0 else s.buflen + 1
    h := if full then absorbBlock s.alg (chunk s) s.h (bufBlock buf (chunk s)) else s.h }

/-- UPDATE's loop (R146). -/
def pushBytes (s : State) (bs : List Byte) : State := bs.foldl pushByte s

/-! ### Padding, extraction and the end of DIGEST -/

/-- The message's bit length as its 8 bytes: little-endian for MD5, else big-endian (R124, R162). -/
def lengthField (a : Alg) (total : Dword) : List Byte :=
  match a with
  | .md5 => st64le (8#64 * total)
  | _ => st64be (8#64 * total)

/-- `BUF[r] <- 0x80` and zeros to the end of the block, the first lines of `PAD_MD()` (R162). -/
def markEnd (s : State) : State :=
  { s with buf := bufPut (bufFill s.buf (s.buflen.toNat + 1) 64 0) s.buflen.toNat [0x80#8] }

/-- A block of zeros for the second padding block (R162). -/
def zeroBlock (s : State) : State := { s with buf := bufFill s.buf 0 64 0 }

/-- The length field in the last 8 bytes of the block (R162). -/
def putLength (s : State) : State := { s with buf := bufPut s.buf 56 (lengthField s.alg s.total) }

/-- `PAD_MD()` (R162): one block, or two when `r ≥ 56`. -/
def padMd (s : State) : State :=
  if 56 ≤ s.buflen.toNat then absorb (putLength (zeroBlock (absorb (markEnd s))))
  else absorb (putLength (markEnd s))

/-- The last block of `PAD_KECCAK()` (R284). -/
def markKeccak (s : State) : State :=
  { s with
    buf := bufXor (bufXor (bufFill s.buf s.buflen.toNat (chunk s) 0) s.buflen.toNat (padByte s.kpad))
      (chunk s - 1) 0x80#8 }

/-- `PAD_KECCAK()` (R284): always exactly one block. -/
def padKeccak (s : State) : State := absorb (markKeccak s)

/-- `EXTRACT_MD()` (R166). -/
def extractMd (a : Alg) (h : Vector Word 50) : List Byte :=
  match a with
  | .none => []
  | .md5 => (List.range 4).flatMap fun i => st32le (wordAt h i)
  | .sha1 => (List.range 5).flatMap fun i => st32be (wordAt h i)
  | .sha256 => (List.range 8).flatMap fun i => st32be (wordAt h i)
  | .keccak => []

/-- The padding of the instance's algorithm (R160). -/
def padMessage (s : State) : State := if s.alg = .keccak then padKeccak s else padMd s

/-- The digest of a padded instance, `DSIZE` bytes (R160). -/
def digestBytes (s : State) : List Byte :=
  if s.alg = .keccak then squeeze (chunk s) (dsize s) 0 s.h else extractMd s.alg s.h

/-- The end of DIGEST under `KECCAK_REUSE = error` for Keccak (R172): finalized, `TOTAL` kept, `H`
unspecified (U5; log entry 15). -/
def finalizeInstance (s : State) : State :=
  { s with fin := true, buflen := 0, h := freshWords s.draws, draws := s.draws + 50 }

/-- `FINISH()` (R171, R172). -/
def finish (s : State) : State :=
  if s.alg = .keccak ∧ s.plat.keccakReuse = .error then finalizeInstance s else instanceReset s

/-- Bytes written to host memory, with their events (R68). -/
def storeOutput (a : Nat) (out : List Byte) (s : State) : State :=
  { s with mem := s.mem.writeBytes a out, trace := s.trace ++ writeEvents a out }

/-- Bytes of host memory that a command has read, as events (R68). -/
def logReads (a : Nat) (bs : List Byte) (s : State) : State :=
  { s with trace := s.trace ++ readEvents a bs }

end Sys2Proof.Machine
end

