-- ==== Sys2Proof/Machine/Stream.lean ====
section
/-! DEFINITION. The meanings of INIT.MD5, INIT.SHA1, INIT.SHA256, INIT.KECCAK, RESET, UPDATE and DIGEST
(41_stream_engine.md). -/

namespace Sys2Proof.Machine

/-- INIT.MD5 (R141): accepted whatever `ERR`, `ALG` and `FIN` hold. -/
def execInitMd5 (s : State) : Outcome := .next (createInstance .md5 0 .keccak 0 s)

/-- INIT.SHA1 (R142). -/
def execInitSha1 (s : State) : Outcome := .next (createInstance .sha1 0 .keccak 0 s)

/-- INIT.SHA256 (R143). -/
def execInitSha256 (s : State) : Outcome := .next (createInstance .sha256 0 .keccak 0 s)

/-- `OUTBITS` of a new Keccak instance (R34, R144). -/
def keccakOutbits (kpad : KPad) (kbits : Nat) (argOutbits : Word) : Word :=
  if variableOutput kpad then argOutbits else BitVec.ofNat 32 kbits

/-- INIT.KECCAK (R144), with the parameter check of R104; INIT.* is not gated (R316), and a rejection
while `ERR ≠ 0` changes nothing (R315, R317). -/
def execInitKeccak (kpad : KPad) (kbits : Nat) (s : State) : Outcome :=
  check (paramsLegal kpad kbits s.argOutbits) .param (.initKeccak kpad kbits) s <|
  .next (createInstance .keccak (BitVec.ofNat 10 kbits) kpad (keccakOutbits kpad kbits s.argOutbits) s)

/-- RESET (R145): common gates only. -/
def execReset (s : State) : Outcome := commonGates .reset s <| .next (instanceReset s)

/-- The effect of UPDATE once its checks have passed (R146). -/
def updateBody (s : State) : State :=
  let bs := s.mem.readBytes (srcBase s) s.srcCnt.toNat
  let s1 := pushBytes s bs
  logReads (srcBase s) bs { s1 with total := s.total + s.srcCnt.setWidth 64 }

/-- UPDATE (R146, R147). -/
def execUpdate (s : State) : Outcome :=
  commonGates .update s <|
  check (!s.fin) .finalized .update s <|
  checkSource s.srcCnt.toNat .update s <|
  .next (updateBody s)

/-- The effect of DIGEST once its checks have passed (R160). -/
def digestBody (s : State) : State :=
  let s1 := padMessage s
  finish (storeOutput (dstBase s) (digestBytes s1) s1)

/-- DIGEST (R160, R161). -/
def execDigest (s : State) : Outcome :=
  commonGates .digest s <|
  check (!s.fin) .finalized .digest s <|
  check (decide (s.dstLen.toNat = dsize s)) .bufSize .digest s <|
  checkDestination (dsize s) .digest s <|
  .next (digestBody s)

end Sys2Proof.Machine
end

