-- ==== Sys2Proof/Machine/Transform.lean ====
section
/-! DEFINITION. The meanings of XF.MD5 (42_md5.md R181), XF.SHA1 (43_sha1.md R211), XF.SHA256
(44_sha256.md R231) and XF.KECCAKF (45_keccak.md R262): one transform on `H`, past the engine. -/

namespace Sys2Proof.Machine

/-- The 64-byte block of host memory that XF.MD5, XF.SHA1 and XF.SHA256 read. -/
def sourceBlock (s : State) : List Byte := s.mem.readBytes (srcBase s) 64

/-- `H <- XF(H, B)` with the block of host memory, its bytes logged (R68); nothing else is written. -/
def transformSource (s : State) : State :=
  logReads (srcBase s) (sourceBlock s) { s with h := absorbBlock s.alg (chunk s) s.h (sourceBlock s) }

/-- The command shape of XF.MD5, XF.SHA1 and XF.SHA256: gates, `ERR_ALG`, the checks of 64 bytes, the
transform of the instance's algorithm, which the check has made `a`. -/
def execBlockTransform (a : Alg) (i : Instr) (s : State) : Outcome :=
  commonGates i s <|
  check (decide (s.alg = a)) .alg i s <|
  checkSource 64 i s <|
  .next (transformSource s)

/-- XF.MD5 (R181). -/
def execXfMd5 (s : State) : Outcome := execBlockTransform .md5 .xfMd5 s

/-- XF.SHA1 (R211). -/
def execXfSha1 (s : State) : Outcome := execBlockTransform .sha1 .xfSha1 s

/-- XF.SHA256 (R231). -/
def execXfSha256 (s : State) : Outcome := execBlockTransform .sha256 .xfSha256 s

/-- XF.KECCAKF (R262): not gated by `FIN`, no memory access. -/
def execXfKeccakf (s : State) : Outcome :=
  commonGates .xfKeccakf s <|
  check (decide (s.alg = .keccak)) .alg .xfKeccakf s <|
  .next { s with h := keccakF s.h }

end Sys2Proof.Machine
end

