-- ==== Sys2Proof/Machine/Dispatch.lean ====
section
/-! DEFINITION. One arm for each command of 30_encoding.md R94. -/

namespace Sys2Proof.Machine

def exec (i : Instr) (s : State) : Host.Outcome State Fault Refusal :=
  match i with
  | .initMd5 => Sys2Proof.Machine.execInitMd5 s
  | .initSha1 => Sys2Proof.Machine.execInitSha1 s
  | .initSha256 => Sys2Proof.Machine.execInitSha256 s
  | .initKeccak kpad kbits => Sys2Proof.Machine.execInitKeccak kpad kbits s
  | .update => Sys2Proof.Machine.execUpdate s
  | .digest => Sys2Proof.Machine.execDigest s
  | .reset => Sys2Proof.Machine.execReset s
  | .xfMd5 => Sys2Proof.Machine.execXfMd5 s
  | .xfSha1 => Sys2Proof.Machine.execXfSha1 s
  | .xfSha256 => Sys2Proof.Machine.execXfSha256 s
  | .xfKeccakf => Sys2Proof.Machine.execXfKeccakf s

end Sys2Proof.Machine
end

