-- ==== Sys2Proof/Machine/Port.lean ====
section
/-! DEFINITION. The port between host and core: register accesses (30_encoding.md R96 to R99), the write
to `CMD` that executes a command (R90), hardware reset (70_reset_and_hazards.md R350), and the host's
own stores to its memory. -/

namespace Sys2Proof.Machine

/-- A write to `CMD` (R44, R90): the register holds the word whatever becomes of it, and the command
executes; an illegal word is rejected (R100, R312), or ignored while `ERR ≠ 0` (R316). -/
def writeCmd (w : Word) (s : State) : Outcome :=
  match decode w with
  | some i => exec i { s with cmd := w }
  | none => .next (raise .illegalCmd w { s with cmd := w })

/-- A write to a register (R96, R97): ignored by read-only and reserved ones; address bits at or above
`AW` are hardwired 0. -/
def writeReg (r : Reg) (v : Word) (s : State) : Outcome :=
  match r with
  | .cmd => writeCmd v s
  | .argOutbits => .next { s with argOutbits := v }
  | .srcAddr => .next { s with srcAddr := v &&& addrMaskLo s.plat }
  | .srcOff => .next { s with srcOff := v }
  | .srcCnt => .next { s with srcCnt := v }
  | .dstAddr => .next { s with dstAddr := v &&& addrMaskLo s.plat }
  | .dstLen => .next { s with dstLen := v }
  | .srcAddrHi => .next { s with srcAddrHi := v &&& addrMaskHi s.plat }
  | .dstAddrHi => .next { s with dstAddrHi := v &&& addrMaskHi s.plat }
  | .status => .next s
  | .errcmd => .next s
  | .cfg => .next s
  | .chunk => .next s
  | .dsize => .next s
  | .buflen => .next s
  | .totalLo => .next s
  | .totalHi => .next s
  | .outbits => .next s
  | .hv _ => .next s
  | .bufw _ => .next s
  | .reserved => .next s

/-- What a register reads as (R96, R99). -/
def regValue (r : Reg) (s : State) : Word :=
  match r with
  | .cmd => s.cmd
  | .status => statusWord s
  | .errcmd => s.errcmd
  | .cfg => cfgWord s
  | .argOutbits => s.argOutbits
  | .srcAddr => s.srcAddr
  | .srcOff => s.srcOff
  | .srcCnt => s.srcCnt
  | .dstAddr => s.dstAddr
  | .dstLen => s.dstLen
  | .chunk => BitVec.ofNat 32 (chunk s)
  | .dsize => BitVec.ofNat 32 (dsize s)
  | .buflen => s.buflen.setWidth 32
  | .totalLo => s.total.extractLsb' 0 32
  | .totalHi => s.total.extractLsb' 32 32
  | .outbits => s.outbits
  | .srcAddrHi => s.srcAddrHi
  | .dstAddrHi => s.dstAddrHi
  | .hv i => hvWord s i
  | .bufw k => bufWord s k
  | .reserved => 0

/-- How many free values a register read draws: one for a dead word of `H`, else none. -/
def regDraws (r : Reg) (s : State) : Nat :=
  match r with
  | .hv i => hvDraws s i
  | _ => 0

/-- A register read: "no side effect" (R69) but the model's own `rdata` and `draws`. -/
def readReg (r : Reg) (s : State) : State :=
  { s with rdata := regValue r s, draws := s.draws + regDraws r s }

/-- Hardware reset (R46, R350): every register of the core to its reset value, `H` and `BUF`
unspecified; host memory untouched (R352), and the host's side of the port kept (log entry 18). -/
def hardReset (s : State) : State :=
  { State.reset with
    h := freshWords s.draws
    buf := freshBytes (s.draws + 50)
    draws := s.draws + 218
    mem := s.mem
    plat := s.plat
    pending := s.pending
    rdata := s.rdata
    trace := s.trace }

/-- The output bytes of a DIGEST that reset cut short: each is written or not, "which is which is
unspecified" (R350, U7; log entry 16). Draw `d + k` decides for byte `k`. -/
def cutWrites (d : Nat) (a : Nat) : List Byte → State → State
  | [], s => s
  | v :: vs, s =>
    cutWrites (d + 1) (a + 1) vs (if Config.freeBit d then storeOutput a [v] s else s)

/-- Whether a word starts a DIGEST that passes its checks. -/
def digestRuns (w : Word) (s : State) : Bool :=
  decide (decode w = some .digest) && decide (s.err = .none) && created s && !s.fin
    && decide (s.dstLen.toNat = dsize s) && rangeOk s (dstBase s) (dsize s)
    && everyAddress (hostWritable s.plat) (dstBase s) (dsize s)

/-- A command abandoned by hardware reset (R350): the core is reset; of its effects only the output
bytes of a running DIGEST can have reached memory. -/
def cutCommand (w : Word) (s : State) : Outcome :=
  match writeCmd w s with
  | .next _ =>
    let out := if digestRuns w s then digestBytes (padMessage s) else []
    .next (hardReset
      (cutWrites s.draws (dstBase s) out { s with draws := s.draws + out.length }))
  | .fault e => .fault e
  | .refused e => .refused e

/-- The check of a register access's form and offset (R96, R98; log entry 10). -/
def checkAccess (offset width : Nat) (go : Outcome) : Outcome :=
  if accessFormOk offset width then (if offset < 0x400 then go else .refused .outsideRegisterFile)
  else .refused .registerAccess

/-- One access of the host. -/
def hostStep (op : HostOp) (s : State) : Outcome :=
  match op with
  | .write offset width v => checkAccess offset width (writeReg (regAt offset) v s)
  | .read offset width => checkAccess offset width (.next (readReg (regAt offset) s))
  | .writeBack offset width => checkAccess offset width (writeReg (regAt offset) s.rdata s)
  | .store a v =>
    if a < 2 ^ s.plat.aw then
      (if notDevice s.plat a then .next { s with mem := s.mem.write a v } else .refused .deviceRegion)
    else .fault .noSuchAddress
  | .reset => .next (hardReset s)
  | .cutCommand w => cutCommand w s

end Sys2Proof.Machine
end

