-- ==== Sys2Proof/Machine/Step.lean ====
section
/-! DEFINITION. One step: the next access of the host is taken, to completion (20_memory.md R75). -/

namespace Sys2Proof.Machine

/-- With an access pending it is taken; with none the core waits, and nothing changes (R336, R351). -/
def step (s : State) : Host.Outcome State Fault Refusal :=
  match s.pending with
  | [] => .next s
  | op :: rest => hostStep op { s with pending := rest }

/-- The host writes the command word `w` next: `CMD` is where commands come from (R79, R90), so this
stands where a fetch would be (log entry 1). -/
def State.withFetchWord (s : State) (nbits w : Nat) : State :=
  { s with pending := .write 0x000 4 (BitVec.ofNat 32 (w % 2 ^ nbits)) :: s.pending }

end Sys2Proof.Machine
end

