-- ==== Sys2Proof/Machine/Pseudo.lean ====
section
/-! DEFINITION. Host programs (30_encoding.md R105, R106) and the pseudo-commands (R110 to R114) as lists
of host accesses, and the informative string encodings of cSHAKE and KMAC, which are host software
(45_keccak.md R300 to R303). No command uses anything of this file. -/

namespace Sys2Proof.Machine

/-- A command mnemonic, "which stands for `WR CMD, <encoding>`" (R106). -/
def command (i : Instr) : HostOp := .write 0x000 4 (encode i)

/-- `UPDATE.AT addr, off, cnt` (R111). -/
def updateAt (addr off cnt : Word) : List HostOp :=
  [.write 0x014 4 addr, .write 0x018 4 off, .write 0x01C 4 cnt, command .update]

/-- `UPDATE.ALL addr, len` (R110). -/
def updateAll (addr len : Word) : List HostOp := updateAt addr 0 len

/-- `DIGEST.TO addr` (R112): the value written to `DST_LEN` is the one that `RD DSIZE` returned. -/
def digestTo (addr : Word) : List HostOp :=
  [.read 0x02C 4, .write 0x020 4 addr, .writeBack 0x024 4, command .digest]

/-- The `x` of `HASH.x`: "one of MD5, SHA1, SHA256" (R113). -/
inductive OneShot where
  | md5
  | sha1
  | sha256
  deriving DecidableEq, Repr

/-- `INIT.x` (R113). -/
def oneShotInit : OneShot → Instr
  | .md5 => .initMd5
  | .sha1 => .initSha1
  | .sha256 => .initSha256

/-- `HASH.x addr, len, out` (R113): `INIT.x; UPDATE.ALL addr, len; DIGEST.TO out`. -/
def hashOneShot (x : OneShot) (addr len out : Word) : List HostOp :=
  command (oneShotInit x) :: updateAll addr len ++ digestTo out

/-- The sizes of the fixed-output variants (R114). -/
inductive FixedSize where
  | n224
  | n256
  | n384
  | n512
  deriving DecidableEq, Repr

/-- The size in bits. -/
def FixedSize.bits : FixedSize → Nat
  | .n224 => 224
  | .n256 => 256
  | .n384 => 384
  | .n512 => 512

/-- The strengths of the variable-output variants (R114). -/
inductive Strength where
  | n128
  | n256
  deriving DecidableEq, Repr

/-- The strength in bits. -/
def Strength.bits : Strength → Nat
  | .n128 => 128
  | .n256 => 256

/-- The named Keccak variants (R114). -/
inductive KeccakVariant where
  /-- `INIT.KECCAKn` -/
  | keccak (n : FixedSize)
  /-- `INIT.SHA3_n` -/
  | sha3 (n : FixedSize)
  /-- `INIT.SHAKEn outbits` -/
  | shake (n : Strength) (outbits : Word)
  /-- `INIT.CSHAKEn outbits` -/
  | cshake (n : Strength) (outbits : Word)
  deriving DecidableEq, Repr

/-- The expansions of R114. -/
def initVariant : KeccakVariant → List HostOp
  | .keccak n => [command (.initKeccak .keccak n.bits)]
  | .sha3 n => [command (.initKeccak .sha3 n.bits)]
  | .shake n outbits => [.write 0x010 4 outbits, command (.initKeccak .shake n.bits)]
  | .cshake n outbits => [.write 0x010 4 outbits, command (.initKeccak .cshake n.bits)]

/-- The `n` low bytes of `x`, most significant first. -/
def bigEndian : Nat → Nat → List Byte
  | 0, _ => []
  | n + 1, x => bigEndian n (x / 256) ++ [BitVec.ofNat 8 x]

/-- The least `n ≥ 1` with `x < 2^(8n)` (R301). -/
def byteLength (x : Nat) : Nat := max 1 ((x.log2 + 8) / 8)

/-- `left_encode` (R301). -/
def leftEncode (x : Nat) : List Byte := BitVec.ofNat 8 (byteLength x) :: bigEndian (byteLength x) x

/-- `right_encode` (R301). -/
def rightEncode (x : Nat) : List Byte := bigEndian (byteLength x) x ++ [BitVec.ofNat 8 (byteLength x)]

/-- `encode_string` (R302). -/
def encodeString (s : List Byte) : List Byte := leftEncode (8 * s.length) ++ s

/-- `bytepad` (R302). -/
def bytepad (z : List Byte) (w : Nat) : List Byte :=
  let p := leftEncode w ++ z
  p ++ List.replicate ((w - p.length % w) % w) 0

/-- The prefix of cSHAKE with function name `n` and customization `s` (R303). -/
def cshakePrefix (n s : List Byte) (rate : Nat) : List Byte :=
  bytepad (encodeString n ++ encodeString s) rate

/-- How a host starts cSHAKE with function name `n` and customization `s`, and the bytes it feeds before the
message; with both empty it is SHAKE with no such bytes (R114, R303). -/
def cshakeStart (strength : Strength) (outbits : Word) (n s : List Byte) (rate : Nat) :
    List HostOp × List Byte :=
  if n = [] ∧ s = [] then (initVariant (.shake strength outbits), [])
  else (initVariant (.cshake strength outbits), cshakePrefix n s rate)

/-- What KMAC feeds after its cSHAKE prefix: key block, message, output length in bits (R303). -/
def kmacInput (key x : List Byte) (outbits rate : Nat) : List Byte :=
  bytepad (encodeString key) rate ++ x ++ rightEncode outbits

end Sys2Proof.Machine
end

