-- ==== Sys2Proof/Safety.lean ====
section
/-! DEFINITION. What holds of every state that a run can reach (the invariants of 10_state.md, R21 to R23,
and of the model's own data), and when two states look the same from outside the core. -/

namespace Sys2Proof.Machine

/-- The invariant of the machine. Every step keeps it; it rules out states no run reaches. -/
structure Invariant (s : State) : Prop where
  /-- `8 ≤ AW ≤ 64` (R12). -/
  platform : s.plat.legal = true
  /-- The memory list is in its canonical form. -/
  memory : s.mem.wf = true
  /-- Host data memory has the addresses 0 to `2^AW - 1` (R60). -/
  memoryBound : ∀ p ∈ s.mem, p.1 < 2 ^ s.plat.aw
  /-- The address bits at or above `AW` are hardwired 0 (R97). -/
  source : s.srcAddr.toNat + 2 ^ 32 * s.srcAddrHi.toNat < 2 ^ s.plat.aw
  /-- The same of `DST_ADDR`. -/
  destination : dstBase s < 2 ^ s.plat.aw
  /-- I-BUF (R21): `BUFLEN < CHUNK` while there is an instance. -/
  buffer : s.alg ≠ .none → s.buflen.toNat < chunk s
  /-- With no instance everything of it is 0 (R46, R352: only hardware reset leads there). -/
  noInstance : s.alg = .none → s.buflen = 0 ∧ s.total = 0 ∧ s.fin = false
  /-- `KBITS`, `KPAD` and `OUTBITS` are 0 for the other algorithms (R33, R34). -/
  notKeccak : s.alg ≠ .keccak → s.kbits = 0 ∧ s.kpad = .keccak ∧ s.outbits = 0
  /-- A Keccak instance has legal parameters (R33, R34, R104). -/
  keccak : s.alg = .keccak → kbitsLegal s.kbits.toNat = true ∧
    (if variableOutput s.kpad then outbitsLegal s.outbits = true
     else s.outbits = s.kbits.setWidth 32)
  /-- `FIN` is set only in a Keccak instance under `KECCAK_REUSE = error`, with an empty buffer (R39,
  R172). -/
  finalized : s.fin = true → s.alg = .keccak ∧ s.plat.keccakReuse = .error ∧ s.buflen = 0
  /-- `ERRCMD` is 0 whenever `ERR` is (R47). -/
  errorCommand : s.err = .none → s.errcmd = 0
  /-- `ERR_FINALIZED` never occurs under `KECCAK_REUSE = reset` (R321). -/
  finalizedError : s.err = .finalized → s.plat.keccakReuse = .error

/-- INIT.MD5, INIT.SHA1, INIT.SHA256, INIT.KECCAK. -/
def isInit : Instr → Bool
  | .initMd5 => true
  | .initSha1 => true
  | .initSha256 => true
  | .initKeccak _ _ => true
  | .update => false
  | .digest => false
  | .reset => false
  | .xfMd5 => false
  | .xfSha1 => false
  | .xfSha256 => false
  | .xfKeccakf => false

/-- The algorithm that an XF command asks for (R314). -/
def transformAlg : Instr → Option Alg
  | .xfMd5 => some .md5
  | .xfSha1 => some .sha1
  | .xfSha256 => some .sha256
  | .xfKeccakf => some .keccak
  | .initMd5 => none
  | .initSha1 => none
  | .initSha256 => none
  | .initKeccak _ _ => none
  | .update => none
  | .digest => none
  | .reset => none

/-- Two states that differ at most in what the spec leaves unspecified and hides: the dead words of `H`
(R27) and the bytes of `BUF` at or above `BUFLEN` (R29). -/
def SameVisible (s t : State) : Prop :=
  t = { s with h := t.h, buf := t.buf } ∧
  (∀ i (hi : i < 50), i < liveCount s.alg → t.h[i] = s.h[i]) ∧
  (∀ k (hk : k < 168), k < s.buflen.toNat → t.buf[k] = s.buf[k])

/-- The same outcome, next states compared by `SameVisible`. -/
def SameOutcome : Outcome → Outcome → Prop
  | .next s, .next t => SameVisible s t
  | .fault a, .fault b => a = b
  | .refused a, .refused b => a = b
  | _, _ => False

end Sys2Proof.Machine
end

