-- ==== Sys2Proof/Certificates/Slice0/Obligations.lean ====
section
/-! DEFINITION. The statements for the provers, and the reference functions they are stated with. -/

namespace Sys2Proof.Claims

open Sys2Proof.Machine

/-! ### What the statements are stated with -/

/-- The host's next access writes `v` at an offset: a value of its own, or what it last read (R112). -/
def NextWrite (s : State) (offset width : Nat) (v : Word) (rest : List HostOp) : Prop :=
  s.pending = .write offset width v :: rest ∨ (s.pending = .writeBack offset width :: rest ∧ v = s.rdata)

/-- `n` steps, each to a next state, lead from `s` to `t`. -/
def StepsTo : Nat → State → State → Prop
  | 0, s, t => t = s
  | n + 1, s, t => ∃ u, step s = .next u ∧ StepsTo n u t

/-- The code of each error (R311). -/
def errorNumber : Err → Nat
  | .none => 0
  | .illegalCmd => 1
  | .notCreated => 2
  | .finalized => 3
  | .bufSize => 4
  | .range => 5
  | .param => 6
  | .alg => 7
  | .bus => 8

/-- The number of each algorithm (R32). -/
def algorithmNumber : Alg → Nat
  | .none => 0
  | .md5 => 1
  | .sha1 => 2
  | .sha256 => 3
  | .keccak => 4

/-- The number of each padding class (R33). -/
def paddingNumber : KPad → Nat
  | .keccak => 0
  | .sha3 => 1
  | .shake => 2
  | .cshake => 3

/-- The common gates pass: no error, and an instance (R313, R316). -/
def Running (s : State) : Prop := s.err = .none ∧ s.alg ≠ .none

/-- The `n` source bytes pass every check of R70 and are ordinary memory (R69). -/
def SourceOk (s : State) (n : Nat) : Prop :=
  (0 < n → srcBase s + n ≤ 2 ^ s.plat.aw) ∧
  ∀ a, srcBase s ≤ a → a < srcBase s + n → hostReadable s.plat a = true ∧ notDevice s.plat a = true

/-- The `n` destination bytes pass every check of R70 and are ordinary memory (R69). -/
def DestinationOk (s : State) (n : Nat) : Prop :=
  (0 < n → dstBase s + n ≤ 2 ^ s.plat.aw) ∧
  ∀ a, dstBase s ≤ a → a < dstBase s + n → hostWritable s.plat a = true ∧ notDevice s.plat a = true

/-- The checks of DIGEST pass (R160). -/
def DigestOk (s : State) : Prop :=
  Running s ∧ s.fin = false ∧ s.dstLen.toNat = dsize s ∧ DestinationOk s (dsize s)

/-- The word is a legal INIT.* (R316). -/
def InitWord (c : Word) : Prop := ∃ i, decode c = some i ∧ isInit i = true

/-- The bytes a command accesses: base, count and the platform's predicate (R61, R70). -/
def access (i : Instr) (s : State) : Option (Nat × Nat × (Nat → Bool)) :=
  match i with
  | .update => some (srcBase s, s.srcCnt.toNat, hostReadable s.plat)
  | .digest => some (dstBase s, dsize s, hostWritable s.plat)
  | .xfMd5 => some (srcBase s, 64, hostReadable s.plat)
  | .xfSha1 => some (srcBase s, 64, hostReadable s.plat)
  | .xfSha256 => some (srcBase s, 64, hostReadable s.plat)
  | _ => none

/-- Checks 2 to 9 of R322, in the spec's order: when each fails, and the error it reports. -/
def orderedChecks (c : Word) (s : State) : List (Prop × Err) :=
  [ (decode c = none, .illegalCmd),
    (¬ InitWord c ∧ s.alg = .none, .notCreated),
    (∃ i a, decode c = some i ∧ transformAlg i = some a ∧ s.alg ≠ a, .alg),
    ((decode c = some .update ∨ decode c = some .digest) ∧ s.fin = true, .finalized),
    (∃ kpad kbits, decode c = some (.initKeccak kpad kbits) ∧
      ¬ (kbits ∈ [128, 224, 256, 384, 512] ∧
        (kpad = .shake ∨ kpad = .cshake → s.argOutbits.toNat % 8 = 0 ∧ 8 ≤ s.argOutbits.toNat)), .param),
    (decode c = some .digest ∧ s.dstLen.toNat ≠ dsize s, .bufSize),
    (∃ i base n reach, decode c = some i ∧ access i s = some (base, n, reach) ∧
      0 < n ∧ 2 ^ s.plat.aw < base + n, .range),
    (∃ i base n reach, decode c = some i ∧ access i s = some (base, n, reach) ∧
      ∃ a, base ≤ a ∧ a < base + n ∧ reach a = false, .bus) ]

/-- A byte that the command of `c` accesses lies in a device region (R69, U14). -/
def DeviceTouched (c : Word) (s : State) : Prop :=
  ∃ i base n reach a, decode c = some i ∧ access i s = some (base, n, reach) ∧
    base ≤ a ∧ a < base + n ∧ notDevice s.plat a = false

/-- `e` belongs to the first check that fails. -/
def FirstFailing (l : List (Prop × Err)) (e : Err) : Prop :=
  ∃ before p after, l = before ++ (p, e) :: after ∧ p ∧ ∀ q ∈ before, ¬ q.1

/-- Byte `i` of a block, as a number. -/
def blockByte (block : List Byte) (i : Nat) : Nat := (block.getD i 0).toNat

/-- A sponge of rate `n` absorbs a block (R150, R280): word `k` below `n / 4` becomes its XOR with the
block's little-endian word `k`, the capacity above is kept, and the state is permuted. -/
def spongeAbsorb (n : Nat) (h : Vector Word 50) (block : List Byte) : Vector Word 50 :=
  keccakF (Vector.ofFn fun k => if k.val < n / 4 then
      h[k.val] ^^^ BitVec.ofNat 32 (blockByte block (4 * k.val) + 2 ^ 8 * blockByte block (4 * k.val + 1)
        + 2 ^ 16 * blockByte block (4 * k.val + 2) + 2 ^ 24 * blockByte block (4 * k.val + 3))
    else h[k.val])

/-- What absorbing one block does (R150): for MD5, SHA-1 and SHA-256 the transform that XF.* runs. -/
def blockFunction (a : Alg) (n : Nat) (h : Vector Word 50) (block : List Byte) : Vector Word 50 :=
  if a = .keccak then spongeAbsorb n h block else absorbBlock a n h block

/-- The block function iterated over the first `q` blocks of `n` bytes of `data`. -/
def absorbAll (a : Alg) (n q : Nat) (h : Vector Word 50) (data : List Byte) : Vector Word 50 :=
  (List.range q).foldl (fun h j => blockFunction a n h ((data.drop (j * n)).take n)) h

/-- The live bytes of the buffer, oldest first (R29). -/
def liveBytes (s : State) : List Byte := s.buf.toList.take s.buflen.toNat

/-- The source bytes of an UPDATE, lowest address first. -/
def sourceBytes (s : State) : List Byte :=
  (List.range s.srcCnt.toNat).map fun k => s.mem.read (srcBase s + k)

/-- The Merkle–Damgård padding after `r` bytes of a block: `0x80`, zeros, the 8-byte length (R162). -/
def mdPadding (a : Alg) (r : Nat) (total : Dword) : List Byte :=
  0x80#8 :: List.replicate ((119 - r) % 64) 0 ++
    (if a = .md5 then st64le (8#64 * total) else st64be (8#64 * total))

/-- Byte `k` of an MD-family digest (R62, R63, R166). -/
def mdDigestByte (a : Alg) (h : Vector Word 50) (k : Nat) : Byte :=
  if a = .md5 then (wordAt h (k / 4) >>> (8 * (k % 4))).setWidth 8
  else (wordAt h (k / 4) >>> (24 - 8 * (k % 4))).setWidth 8

/-- The padding byte of each class, as R283 lists them. -/
def paddingByte : KPad → Byte
  | .keccak => 0x01#8
  | .sha3 => 0x06#8
  | .shake => 0x1F#8
  | .cshake => 0x04#8

/-- Byte `k` of the last block of a sponge that holds `r` bytes `live` (R284, R286). -/
def keccakLastByte (kpad : KPad) (n : Nat) (live : List Byte) (k : Nat) : Byte :=
  (if k < live.length then live.getD k 0 else if k = live.length then paddingByte kpad else 0) ^^^
    (if k = n - 1 then 0x80#8 else 0#8)

/-- Byte `k` of the output of a sponge of rate `n` (R288): byte `k mod n`, low byte first, of the state
after `k div n` further permutations. -/
def squeezedByte (n : Nat) (h : Vector Word 50) (k : Nat) : Byte :=
  (wordAt (keccakF^[k / n] h) (k % n / 4) >>> (8 * (k % n % 4))).setWidth 8

/-- The words `h'` are the words `h` after 24 rounds on the lanes, in coordinates `x`, `y` (R261, R267 to
R271). -/
def RunsKeccakRounds (h h' : Vector Word 50) : Prop :=
  ∃ A B C D A' : Nat → Nat → Nat → Dword,
    (∀ x y, x < 5 → y < 5 →
      (A 0 x y).extractLsb' 0 32 = wordAt h (2 * (x + 5 * y)) ∧
      (A 0 x y).extractLsb' 32 32 = wordAt h (2 * (x + 5 * y) + 1)) ∧
    (∀ r, r < 24 → ∀ x y, x < 5 → y < 5 →
      C r x 0 = A r x 0 ^^^ A r x 1 ^^^ A r x 2 ^^^ A r x 3 ^^^ A r x 4 ∧
      D r x 0 = C r ((x + 4) % 5) 0 ^^^ rotl64 (C r ((x + 1) % 5) 0) 1 ∧
      A' r x y = A r x y ^^^ D r x 0 ∧
      B r y ((2 * x + 3 * y) % 5) = rotl64 (A' r x y) (keccakRho.getD (x + 5 * y) 0) ∧
      A (r + 1) x y = B r x y ^^^ (~~~(B r ((x + 1) % 5) y) &&& B r ((x + 2) % 5) y)
        ^^^ (if x = 0 ∧ y = 0 then keccakRC.getD r 0 else 0)) ∧
    (∀ x y, x < 5 → y < 5 →
      wordAt h' (2 * (x + 5 * y)) = (A 24 x y).extractLsb' 0 32 ∧
      wordAt h' (2 * (x + 5 * y) + 1) = (A 24 x y).extractLsb' 32 32)

/-- The initial vector of `a`; above the live words, 0. -/
def initialVector (a : Alg) : Vector Word 50 :=
  Vector.ofFn fun i => if i.val < liveCount a then initialWord a i.val else 0

/-- MD5, SHA-1 or SHA-256 of a message, with no buffer: pad the whole message, fold the block function
over it, byte `k` of the result (R162, R166). -/
def mdHashByte (a : Alg) (m : List Byte) (k : Nat) : Byte :=
  let padded := m ++ mdPadding a (m.length % 64) (BitVec.ofNat 64 m.length)
  mdDigestByte a (absorbAll a 64 (padded.length / 64) (initialVector a) padded) k

/-- The sponge on a message, with no buffer: byte `k` of the output (R280, R284, R288). -/
def spongeByte (kpad : KPad) (n : Nat) (m : List Byte) (k : Nat) : Byte :=
  let q := m.length / n
  let last := (List.range n).map (keccakLastByte kpad n (m.drop (q * n)))
  squeezedByte n (spongeAbsorb n (absorbAll .keccak n q (Vector.replicate 50 0) m) last) k

/-- Operands of one UPDATE. -/
structure Piece where
  addr : Word
  addrHi : Word
  off : Word
  cnt : Word

/-- The operand registers of UPDATE set to a piece (R356). -/
def withPiece (p : Piece) (s : State) : State :=
  { s with srcAddr := p.addr, srcAddrHi := p.addrHi, srcOff := p.off, srcCnt := p.cnt }

/-- The bytes a piece names, in the memory of `s`. -/
def pieceBytes (s : State) (p : Piece) : List Byte := sourceBytes (withPiece p s)

/-- `t` is the state after one UPDATE for each piece. -/
def UpdatesTo : List Piece → State → State → Prop
  | [], s, t => t = s
  | p :: ps, s, t => ∃ u, exec .update (withPiece p s) = .next u ∧ UpdatesTo ps u t

/-- The registers of the core at their reset values (R46). -/
def CoreReset (t : State) : Prop :=
  t.alg = .none ∧ t.kbits = 0 ∧ t.kpad = .keccak ∧ t.outbits = 0 ∧ chunk t = 0 ∧ dsize t = 0 ∧
  cfgWord t = 0 ∧ t.err = .none ∧ t.errcmd = 0 ∧ t.fin = false ∧ statusWord t = 0 ∧ t.buflen = 0 ∧
  t.total = 0 ∧ t.cmd = 0 ∧ t.argOutbits = 0 ∧ t.srcAddr = 0 ∧ t.srcAddrHi = 0 ∧ t.srcOff = 0 ∧
  t.srcCnt = 0 ∧ t.dstAddr = 0 ∧ t.dstAddrHi = 0 ∧ t.dstLen = 0

/-- The word `X[i]` of the source block, little-endian (R182). -/
def blockWordLe (s : State) (i : Nat) : Word :=
  BitVec.ofNat 32 ((s.mem.read (srcBase s + 4 * i)).toNat
    + 2 ^ 8 * (s.mem.read (srcBase s + 4 * i + 1)).toNat
    + 2 ^ 16 * (s.mem.read (srcBase s + 4 * i + 2)).toNat
    + 2 ^ 24 * (s.mem.read (srcBase s + 4 * i + 3)).toNat)

/-- The word `w[i]` of the source block, big-endian (R212, R232). -/
def blockWordBe (s : State) (i : Nat) : Word :=
  BitVec.ofNat 32 (2 ^ 24 * (s.mem.read (srcBase s + 4 * i)).toNat
    + 2 ^ 16 * (s.mem.read (srcBase s + 4 * i + 1)).toNat
    + 2 ^ 8 * (s.mem.read (srcBase s + 4 * i + 2)).toNat
    + (s.mem.read (srcBase s + 4 * i + 3)).toNat)

/-- One read event for each of the `n` source bytes, lowest address first (R68). -/
def sourceReads (s : State) (n : Nat) : List MemEvent :=
  (List.range n).map fun k => .read (srcBase s + k) (s.mem.read (srcBase s + k))

end Sys2Proof.Claims

open Sys2Proof Sys2Proof.Machine Sys2Proof.Claims

/-! ### Encoding and decoding -/

/-- Every well-formed command decodes back from its word (30_encoding.md R91, R94, R105). -/
def Obligations.EncodedCommandDecodesBack : Prop :=
  ∀ i : Instr, i.wf = true → decode (encode i) = some i

/-- The other direction: a word has at most one meaning (R94). -/
def Obligations.DecodedWordEncodesBack : Prop :=
  ∀ (c : Word) (i : Instr), decode c = some i → i.wf = true ∧ encode i = c

/-- Which words are illegal, by their fields (R100), and what writing one does (R312). -/
def Obligations.IllegalWordsByFieldAndTheirRejection : Prop :=
  ∀ (c : Word) (s : State),
    (decode c = none ↔
      ¬ ((fieldOp c = 0x01#8 ∧ (fieldAlg c = 1#4 ∨ fieldAlg c = 2#4 ∨ fieldAlg c = 3#4) ∧
            fieldKpad c = 0#2 ∧ fieldZero c = 0#8 ∧ fieldKbits c = 0#10) ∨
         (fieldOp c = 0x01#8 ∧ fieldAlg c = 4#4 ∧ fieldZero c = 0#8) ∨
         ((fieldOp c = 0x02#8 ∨ fieldOp c = 0x03#8 ∨ fieldOp c = 0x04#8 ∨ fieldOp c = 0x10#8 ∨
             fieldOp c = 0x11#8 ∨ fieldOp c = 0x12#8 ∨ fieldOp c = 0x13#8) ∧
            fieldAlg c = 0#4 ∧ fieldKpad c = 0#2 ∧ fieldZero c = 0#8 ∧ fieldKbits c = 0#10))) ∧
    (decode c = none → s.err = .none →
      writeCmd c s = .next { s with cmd := c, err := .illegalCmd, errcmd := c })

/-- "Rows never overlap" (R94). -/
def Obligations.OpcodeRowsNeverOverlap : Prop :=
  opcodeMap.Pairwise fun r q => ∀ c : Word, ¬ (c &&& r.mask = r.pattern ∧ c &&& q.mask = q.pattern)

/-- The count of R102. -/
def Obligations.HowManyWordsDecode : Prop :=
  Set.ncard { c : Word | decode c ≠ none } = 4106 ∧
  Set.ncard { c : Word | ∃ kpad kbits, decode c = some (.initKeccak kpad kbits) } = 4096 ∧
  Set.ncard { c : Word | ∃ kpad kbits, decode c = some (.initKeccak kpad kbits) ∧
    kbits ∈ [128, 224, 256, 384, 512] } = 20

/-- The words R105 and R94 write out. -/
def Obligations.SampleWordsDecode : Prop :=
  decode 0x01100000#32 = some .initMd5 ∧ decode 0x01200000#32 = some .initSha1 ∧
  decode 0x01300000#32 = some .initSha256 ∧ decode 0x01440100#32 = some (.initKeccak .sha3 256) ∧
  decode 0x01480080#32 = some (.initKeccak .shake 128) ∧ decode 0x02000000#32 = some .update ∧
  decode 0x03000000#32 = some .digest ∧ decode 0x04000000#32 = some .reset ∧
  decode 0x10000000#32 = some .xfMd5 ∧ decode 0x13000000#32 = some .xfKeccakf ∧
  decode 0x00000000#32 = none

/-! ### Memory and primitives -/

/-- A read "returns the last value written" (R69), over any run of byte stores, which
keep the canonical form; a location with no store in it reads as before. -/
def Obligations.LastStoreToAnAddressIsRead : Prop :=
  ∀ (m : Memory) (stores : List (Nat × Byte)) (a : Nat), m.wf = true →
    let m' := stores.foldl (fun m p => m.write p.1 p.2) m
    m'.wf = true ∧
    (∀ before v after, stores = before ++ (a, v) :: after → (∀ p ∈ after, p.1 ≠ a) → m'.read a = v) ∧
    ((∀ p ∈ stores, p.1 ≠ a) → m'.read a = m.read a)

/-- Equal memories are equal data. -/
def Obligations.MemoriesWithEqualBytesAreEqual : Prop :=
  ∀ m n : Memory, m.wf = true → n.wf = true → (∀ a, m.read a = n.read a) → m = n

/-- R126, bit by bit, and the formula. -/
def Obligations.RotatesMoveEveryBit : Prop :=
  ∀ (x : Word) (n i : Nat), n ≤ 31 → i < 32 →
    (rotl32 x n).getLsbD ((i + n) % 32) = x.getLsbD i ∧
    (rotr32 x n).getLsbD i = x.getLsbD ((i + n) % 32) ∧
    (1 ≤ n → rotl32 x n = (x <<< n ||| x >>> (32 - n))) ∧ rotl32 x 0 = x ∧
    rotr32 x n = rotl32 x ((32 - n) % 32)

/-- R129: `rotl64` bit by bit, and on the pair of words that the hardware stores. -/
def Obligations.LaneRotateOnWordPair : Prop :=
  ∀ (l : Dword) (n : Nat), n ≤ 63 →
    let lo : Word := l.extractLsb' 0 32
    let hi : Word := l.extractLsb' 32 32
    let lo' : Word := (rotl64 l n).extractLsb' 0 32
    let hi' : Word := (rotl64 l n).extractLsb' 32 32
    (∀ i, i < 64 → (rotl64 l n).getLsbD ((i + n) % 64) = l.getLsbD i) ∧
    (n = 0 → lo' = lo ∧ hi' = hi) ∧
    (1 ≤ n ∧ n ≤ 31 → lo' = (lo <<< n ||| hi >>> (32 - n)) ∧ hi' = (hi <<< n ||| lo >>> (32 - n))) ∧
    (n = 32 → lo' = hi ∧ hi' = lo) ∧
    (33 ≤ n → lo' = (hi <<< (n - 32) ||| lo >>> (64 - n)) ∧ hi' = (lo <<< (n - 32) ||| hi >>> (64 - n)))

/-- The stores byte by byte (R130, R131), and R130's two round trips, at any place of a byte list. -/
def Obligations.StoredWordsLoadBack : Prop :=
  ∀ (v : Word) (d : Dword) (before after : List Byte),
    ((st32le v).length = 4 ∧ (st32be v).length = 4 ∧ ∀ k, k < 4 →
      byteAt (st32le v) k = v.extractLsb' (8 * k) 8 ∧ byteAt (st32be v) (3 - k) = v.extractLsb' (8 * k) 8) ∧
    ((st64le d).length = 8 ∧ (st64be d).length = 8 ∧ ∀ k, k < 8 →
      byteAt (st64le d) k = d.extractLsb' (8 * k) 8 ∧ byteAt (st64be d) (7 - k) = d.extractLsb' (8 * k) 8) ∧
    ld32le (before ++ st32le v ++ after) before.length = v ∧
    ld32be (before ++ st32be v ++ after) before.length = v

/-! ### The step, the gate, the checks -/

/-- With nothing pending the core waits (R336, R351; the model's form of it is log entry 1). -/
def Obligations.IdleCoreDoesNothing : Prop :=
  ∀ s : State, s.pending = [] → step s = .next s

/-- A step runs the decoded command (R90), after `CMD` has taken the word (R44). -/
def Obligations.StepRunsTheDecodedCommand : Prop :=
  ∀ (s : State) (c : Word) (i : Instr) (rest : List HostOp),
    NextWrite s 0x000 4 c rest → decode c = some i →
      step s = exec i { s with pending := rest, cmd := c }

/-- The gate (R316). -/
def Obligations.GateIgnoresEverythingButInit : Prop :=
  ∀ (s : State) (c : Word) (rest : List HostOp),
    NextWrite s 0x000 4 c rest → s.err ≠ .none → ¬ InitWord c →
      step s = .next { s with pending := rest, cmd := c }

/-- The order of checks (R322): while `ERR ≠ 0` everything but a legal INIT.* is ignored; then the first
check that fails is the error reported, and nothing but `ERR` and `ERRCMD` changes (R315); when none
fails and the range is ordinary memory the command runs (R69 puts device regions outside the spec;
DeviceRegionsAreRefused says what the model does there). -/
def Obligations.FirstFailingCheckIsReported : Prop :=
  ∀ (c : Word) (s : State),
    (s.err ≠ .none ∧ ¬ InitWord c → writeCmd c s = .next { s with cmd := c }) ∧
    ((s.err ≠ .none → InitWord c) →
      (∀ e, FirstFailing (orderedChecks c s) e →
        writeCmd c s = .next (if s.err = .none then { s with cmd := c, err := e, errcmd := c }
                              else { s with cmd := c })) ∧
      ((∀ q ∈ orderedChecks c s, ¬ q.1) → ¬ DeviceTouched c s → ∃ t, writeCmd c s = .next t ∧ t.err = .none ∧ t.cmd = c))

/-- The model's choice (log entry 11): a command that fails no check and whose range touches a device region
is refused (R69, U14: "refuse"), and so is a host store there. -/
def Obligations.DeviceRegionsAreRefused : Prop :=
  (∀ (c : Word) (s : State), (s.err ≠ .none → InitWord c) → (∀ q ∈ orderedChecks c s, ¬ q.1) →
    DeviceTouched c s → writeCmd c s = .refused .deviceRegion) ∧
  ∀ (s : State) (a : Nat) (v : Byte) (rest : List HostOp), s.pending = .store a v :: rest →
    a < 2 ^ s.plat.aw → notDevice s.plat a = false → step s = .refused .deviceRegion

/-- A byte the host stores is in memory for every later command (R74 (a), R69), and nothing else changes;
the model's choice (log entry 12): an address that does not exist faults. -/
def Obligations.HostStoresReachMemory : Prop :=
  ∀ (s : State) (a : Nat) (v : Byte) (rest : List HostOp), s.mem.wf = true →
    s.pending = .store a v :: rest →
    (a < 2 ^ s.plat.aw → notDevice s.plat a = true → ∃ t, step s = .next t ∧
      t = { s with pending := rest, mem := t.mem } ∧
      ∀ b, t.mem.read b = if b = a then v else s.mem.read b) ∧
    (2 ^ s.plat.aw ≤ a → step s = .fault .noSuchAddress)

/-! ### INIT and RESET -/

/-- INIT.MD5 (R141), with its initial vector (R28). `H[4..49]` is left open: unspecified. -/
def Obligations.InitMd5CreatesAnInstance : Prop :=
  decode 0x01100000#32 = some .initMd5 ∧ ∀ s : State, ∃ t, exec .initMd5 s = .next t ∧
    t = { s with
      alg := .md5, kbits := 0, kpad := .keccak, outbits := 0, h := t.h, buflen := 0, total := 0,
      fin := false, err := .none, errcmd := 0, draws := t.draws } ∧
    chunk t = 64 ∧ dsize t = 16 ∧ statusWord t = 0x100#32 ∧ cfgWord t = 0x00100000#32 ∧
    t.h[0] = 0x67452301#32 ∧ t.h[1] = 0xEFCDAB89#32 ∧ t.h[2] = 0x98BADCFE#32 ∧ t.h[3] = 0x10325476#32

/-- INIT.SHA1 (R142). -/
def Obligations.InitSha1CreatesAnInstance : Prop :=
  decode 0x01200000#32 = some .initSha1 ∧ ∀ s : State, ∃ t, exec .initSha1 s = .next t ∧
    t = { s with
      alg := .sha1, kbits := 0, kpad := .keccak, outbits := 0, h := t.h, buflen := 0, total := 0,
      fin := false, err := .none, errcmd := 0, draws := t.draws } ∧
    chunk t = 64 ∧ dsize t = 20 ∧ statusWord t = 0x100#32 ∧ cfgWord t = 0x00200000#32 ∧
    t.h[0] = 0x67452301#32 ∧ t.h[1] = 0xEFCDAB89#32 ∧ t.h[2] = 0x98BADCFE#32 ∧
    t.h[3] = 0x10325476#32 ∧ t.h[4] = 0xC3D2E1F0#32

/-- INIT.SHA256 (R143). -/
def Obligations.InitSha256CreatesAnInstance : Prop :=
  decode 0x01300000#32 = some .initSha256 ∧ ∀ s : State, ∃ t, exec .initSha256 s = .next t ∧
    t = { s with
      alg := .sha256, kbits := 0, kpad := .keccak, outbits := 0, h := t.h, buflen := 0, total := 0,
      fin := false, err := .none, errcmd := 0, draws := t.draws } ∧
    chunk t = 64 ∧ dsize t = 32 ∧ statusWord t = 0x100#32 ∧ cfgWord t = 0x00300000#32 ∧
    t.h[0] = 0x6A09E667#32 ∧ t.h[1] = 0xBB67AE85#32 ∧ t.h[2] = 0x3C6EF372#32 ∧
    t.h[3] = 0xA54FF53A#32 ∧ t.h[4] = 0x510E527F#32 ∧ t.h[5] = 0x9B05688C#32 ∧
    t.h[6] = 0x1F83D9AB#32 ∧ t.h[7] = 0x5BE0CD19#32

/-- INIT.KECCAK (R144): with legal parameters (R104) it creates an instance of every padding class; with
illegal ones (R318) it raises `ERR_PARAM` and keeps the instance, and while `ERR ≠ 0` nothing changes. -/
def Obligations.InitKeccakCreatesOrRejects : Prop :=
  ∀ (kpad : KPad) (kbits : Nat),
    (kbits < 2 ^ 10 →
      decode (BitVec.ofNat 32 (0x01400000 + paddingNumber kpad * 2 ^ 18 + kbits)) = some (.initKeccak kpad kbits)) ∧
    ∀ s : State,
      ((kbits ∈ [128, 224, 256, 384, 512] ∧
          (kpad = .shake ∨ kpad = .cshake → s.argOutbits.toNat % 8 = 0 ∧ 8 ≤ s.argOutbits.toNat)) →
        ∃ t, exec (.initKeccak kpad kbits) s = .next t ∧
          t = { s with
            alg := .keccak, kbits := BitVec.ofNat 10 kbits, kpad := kpad
            outbits := if kpad = .shake ∨ kpad = .cshake then s.argOutbits else BitVec.ofNat 32 kbits
            h := Vector.replicate 50 0, buflen := 0, total := 0, fin := false, err := .none, errcmd := 0,
            draws := t.draws } ∧
          t.kbits.toNat = kbits ∧ chunk t = (1600 - 2 * kbits) / 8 ∧ chunk t % 8 = 0 ∧
          dsize t = t.outbits.toNat / 8 ∧ 1 ≤ dsize t ∧ statusWord t = 0x100#32 ∧
          cfgWord t = BitVec.ofNat 32 (4 * 2 ^ 20 + paddingNumber kpad * 2 ^ 18 + kbits)) ∧
      ((kbits ∉ [128, 224, 256, 384, 512] ∨
          ((kpad = .shake ∨ kpad = .cshake) ∧ (s.argOutbits.toNat % 8 ≠ 0 ∨ s.argOutbits.toNat < 8))) →
        (s.err = .none → exec (.initKeccak kpad kbits) s =
          .next { s with err := .param, errcmd := encode (.initKeccak kpad kbits) }) ∧
        (s.err ≠ .none → exec (.initKeccak kpad kbits) s = .next s))

/-- RESET (R145): restores every instance, changes nothing of a fresh one, is rejected with none, and does
not clear an error. -/
def Obligations.ResetCommandRestoresTheInstance : Prop :=
  decode 0x04000000#32 = some .reset ∧ ∀ s : State,
    (s.err = .none → s.alg ≠ .none → ∃ t, exec .reset s = .next t ∧
      t = { s with h := t.h, buflen := 0, total := 0, fin := false } ∧
      (∀ i (hi : i < 50), t.h[i] = if i < liveCount s.alg then initialWord s.alg i else s.h[i]) ∧
      ((∀ i (hi : i < 50), i < liveCount s.alg → s.h[i] = initialWord s.alg i) →
        s.buflen = 0 → s.total = 0 → s.fin = false → t = s)) ∧
    (s.err = .none → s.alg = .none →
      exec .reset s = .next { s with err := .notCreated, errcmd := 0x04000000#32 }) ∧
    (s.err ≠ .none → exec .reset s = .next s)

/-! ### UPDATE -/

/-- UPDATE (R146, R147): the live bytes and the source bytes, cut into blocks, every full block
absorbed in order, the remainder kept; `TOTAL` counts (R124); one read event per byte (R68); nothing
else changes, and nothing at all when `SRC_CNT = 0`, whatever the address. -/
def Obligations.UpdateAbsorbsEveryFullBlock : Prop :=
  ∀ s : State, Invariant s → Running s → s.fin = false → SourceOk s s.srcCnt.toNat →
    ∃ t, exec .update s = .next t ∧
      t = { s with h := t.h, buf := t.buf, buflen := t.buflen, total := t.total, trace := t.trace } ∧
      t.h = absorbAll s.alg (chunk s) ((s.buflen.toNat + s.srcCnt.toNat) / chunk s) s.h
        (liveBytes s ++ sourceBytes s) ∧
      t.buflen.toNat = (s.buflen.toNat + s.srcCnt.toNat) % chunk s ∧
      liveBytes t = (liveBytes s ++ sourceBytes s).drop
        ((s.buflen.toNat + s.srcCnt.toNat) / chunk s * chunk s) ∧
      t.total.toNat = (s.total.toNat + s.srcCnt.toNat) % 2 ^ 64 ∧
      t.trace = s.trace ++ sourceReads s s.srcCnt.toNat ∧
      (s.srcCnt = 0 → t = s)

/-- Streaming equivalence (R149): two ways of cutting the same bytes into UPDATE commands complete and
leave the same `H`, `BUF[0..BUFLEN-1]`, `BUFLEN` and `TOTAL`. -/
def Obligations.UpdateSplitsAgree : Prop :=
  ∀ (s : State) (ps qs : List Piece), Running s → s.fin = false →
    (∀ p ∈ ps, SourceOk (withPiece p s) p.cnt.toNat) →
    (∀ q ∈ qs, SourceOk (withPiece q s) q.cnt.toNat) →
    ps.flatMap (pieceBytes s) = qs.flatMap (pieceBytes s) →
    ∃ t u, UpdatesTo ps s t ∧ UpdatesTo qs s u ∧
      t.h = u.h ∧ liveBytes t = liveBytes u ∧ t.buflen = u.buflen ∧ t.total = u.total

/-! ### DIGEST -/

/-- DIGEST of MD5, SHA-1 and SHA-256 (R162, R166): the padding after `r` live bytes makes one
block when `r ≤ 55` and two otherwise; the digest is the byte image of the state after them. -/
def Obligations.DigestPadsAndExtracts : Prop :=
  ∀ s : State, Invariant s → DigestOk s → s.alg ≠ .keccak →
    ∃ t, exec .digest s = .next t ∧
      (liveBytes s ++ mdPadding s.alg s.buflen.toNat s.total).length =
        (if s.buflen.toNat ≤ 55 then 64 else 128) ∧
      ∀ k, k < dsize s → t.mem.read (dstBase s + k) =
        mdDigestByte s.alg
          (absorbAll s.alg 64 (if s.buflen.toNat ≤ 55 then 1 else 2) s.h
            (liveBytes s ++ mdPadding s.alg s.buflen.toNat s.total)) k

/-- DIGEST of a Keccak instance (R284, R288): exactly one padded block, with the padding byte of its class
(R283), XORed into the state (R280), then the squeeze, under either reuse policy. -/
def Obligations.DigestPadsAndSqueezes : Prop :=
  ∀ s : State, Invariant s → DigestOk s → s.alg = .keccak →
    ∃ t, exec .digest s = .next t ∧
      ∀ k, k < dsize s → t.mem.read (dstBase s + k) =
        squeezedByte (chunk s)
          (spongeAbsorb (chunk s) s.h
            ((List.range (chunk s)).map (keccakLastByte s.kpad (chunk s) (liveBytes s)))) k

/-- What DIGEST leaves (R167, R171): only the `DSIZE` output bytes of memory, with one write event
each, and the instance of a fresh one with the same configuration. -/
def Obligations.DigestResetsTheInstance : Prop :=
  ∀ s : State, Invariant s → DigestOk s → (s.alg = .keccak → s.plat.keccakReuse = .reset) →
    (s.alg = .md5 → dsize s = 16) ∧ (s.alg = .sha1 → dsize s = 20) ∧ (s.alg = .sha256 → dsize s = 32) ∧
    ∃ t, exec .digest s = .next t ∧
      t = { s with h := t.h, buf := t.buf, buflen := 0, total := 0, fin := false, mem := t.mem,
                   trace := t.trace } ∧
      (∀ i (hi : i < 50), t.h[i] = if i < liveCount s.alg then initialWord s.alg i else s.h[i]) ∧
      (∀ a, (a < dstBase s ∨ dstBase s + dsize s ≤ a) → t.mem.read a = s.mem.read a) ∧
      t.trace = s.trace ++ (List.range (dsize s)).map fun k =>
        .write (dstBase s + k) (t.mem.read (dstBase s + k))

/-- DIGEST of a Keccak instance under `KECCAK_REUSE = error` (R172): finalized, `TOTAL` kept, `H` left
open; then UPDATE and DIGEST raise `ERR_FINALIZED`, RESET makes the instance fresh, a successful INIT.*
clears `FIN`, and XF.KECCAKF is not gated: it runs, and leaves `H` open (U5). One write event for each
output byte (R68). -/
def Obligations.DigestFinalizesUnderErrorPolicy : Prop :=
  ∀ s : State, Invariant s → DigestOk s → s.alg = .keccak → s.plat.keccakReuse = .error →
    ∃ t, exec .digest s = .next t ∧
      t = { s with h := t.h, buf := t.buf, buflen := 0, fin := true, mem := t.mem, trace := t.trace,
                   draws := t.draws } ∧
      (∀ a, (a < dstBase s ∨ dstBase s + dsize s ≤ a) → t.mem.read a = s.mem.read a) ∧
      (t.trace = s.trace ++ (List.range (dsize s)).map fun k =>
        .write (dstBase s + k) (t.mem.read (dstBase s + k))) ∧
      exec .update t = .next { t with err := .finalized, errcmd := 0x02000000#32 } ∧
      exec .digest t = .next { t with err := .finalized, errcmd := 0x03000000#32 } ∧
      exec .reset t = .next { t with h := Vector.replicate 50 0, total := 0, fin := false } ∧
      (∃ u, exec .xfKeccakf t = .next u ∧ u = { t with h := u.h }) ∧
      ∀ i u, isInit i = true → exec i t = .next u → u.err = .none → u.fin = false

/-- The prefix property (R290): two Keccak instances that differ only in the requested output length. -/
def Obligations.ShorterOutputIsAPrefix : Prop :=
  ∀ (s : State) (n : Word), Invariant s → DigestOk s → s.alg = .keccak →
    let s' := { s with outbits := n, dstLen := BitVec.ofNat 32 (n.toNat / 8) }
    DigestOk s' → s.outbits.toNat ≤ n.toNat →
    ∃ t t', exec .digest s = .next t ∧ exec .digest s' = .next t' ∧
      ∀ k, k < dsize s → t.mem.read (dstBase s + k) = t'.mem.read (dstBase s + k)

/-- INIT, any UPDATE commands, DIGEST: the digest in memory is MD5, SHA-1 or SHA-256 of the message as
the bufferless reference computes it, and the instance is fresh again. -/
def Obligations.StreamedHashIsTheHashOfTheMessage : Prop :=
  ∀ (s : State) (i : Instr) (a : Alg) (ps : List Piece),
    (i = .initMd5 ∧ a = .md5) ∨ (i = .initSha1 ∧ a = .sha1) ∨ (i = .initSha256 ∧ a = .sha256) →
    s.plat.legal = true → s.mem.wf = true →
    (∀ p ∈ ps, SourceOk (withPiece p s) p.cnt.toNat) →
    s.dstLen.toNat = dsizeOf a 0 → DestinationOk s (dsizeOf a 0) →
    ∃ t u v, exec i s = .next t ∧ UpdatesTo ps t u ∧ exec .digest u = .next v ∧
      (∀ k, k < dsizeOf a 0 →
        v.mem.read (dstBase s + k) = mdHashByte a (ps.flatMap (pieceBytes s)) k) ∧
      v.err = .none ∧ v.alg = a ∧ v.buflen = 0 ∧ v.total = 0 ∧
      ∀ j (hj : j < 50), j < liveCount a → v.h[j] = initialWord a j

/-- The same of the Keccak family: the output is that of the sponge on the message. -/
def Obligations.StreamedSpongeIsTheSpongeOfTheMessage : Prop :=
  ∀ (s : State) (kpad : KPad) (kbits : Nat) (ps : List Piece),
    kbits ∈ [128, 224, 256, 384, 512] →
    (kpad = .shake ∨ kpad = .cshake → s.argOutbits.toNat % 8 = 0 ∧ 8 ≤ s.argOutbits.toNat) →
    s.plat.legal = true → s.mem.wf = true →
    (∀ p ∈ ps, SourceOk (withPiece p s) p.cnt.toNat) →
    let n := (if kpad = .shake ∨ kpad = .cshake then s.argOutbits.toNat else kbits) / 8
    s.dstLen.toNat = n → DestinationOk s n →
    ∃ t u v, exec (.initKeccak kpad kbits) s = .next t ∧ UpdatesTo ps t u ∧ exec .digest u = .next v ∧
      ∀ k, k < n → v.mem.read (dstBase s + k) =
        spongeByte kpad ((1600 - 2 * kbits) / 8) (ps.flatMap (pieceBytes s)) k

/-! ### Pseudo-commands -/

/-- UPDATE.AT, UPDATE.ALL and DIGEST.TO (R110 to R112): the accesses before the last set the operand
registers, `DST_LEN` to the value that `RD DSIZE` returned, and the last step runs the command. So
DIGEST.TO never raises `ERR_BUFSIZE`. -/
def Obligations.PseudoCommandsSetOperandsAndRun : Prop :=
  ∀ (s : State) (addr off cnt : Word) (rest : List HostOp), s.plat.legal = true →
    let masked : Word := BitVec.ofNat 32 (addr.toNat % 2 ^ s.plat.aw)
    (s.pending = updateAt addr off cnt ++ rest → ∃ t, StepsTo 3 s t ∧ step t = exec .update
      { s with pending := rest, srcAddr := masked, srcOff := off, srcCnt := cnt, cmd := 0x02000000#32 }) ∧
    (s.pending = updateAll addr cnt ++ rest → ∃ t, StepsTo 3 s t ∧ step t = exec .update
      { s with pending := rest, srcAddr := masked, srcOff := 0, srcCnt := cnt, cmd := 0x02000000#32 }) ∧
    (s.pending = digestTo addr ++ rest → ∃ t d, StepsTo 3 s t ∧ d.toNat = dsize s ∧
      step t = exec .digest
        { s with pending := rest, rdata := d, dstAddr := masked, dstLen := d, cmd := 0x03000000#32 } ∧
      ∀ u, step t = .next u → u.err = .bufSize → s.err = .bufSize)

/-- HASH.x (R113), from every state, whatever instance and error it holds: nine steps lead to the hash of
the message in memory and to a fresh instance. -/
def Obligations.OneShotHashIsTheHashOfTheMessage : Prop :=
  ∀ (s : State) (x : OneShot) (a : Alg) (n : Nat) (addr len out : Word) (rest : List HostOp),
    (x, a, n) ∈ [(OneShot.md5, Alg.md5, 16), (.sha1, .sha1, 20), (.sha256, .sha256, 32)] →
    s.pending = hashOneShot x addr len out ++ rest → s.plat.legal = true → s.mem.wf = true →
    let m := { s with
      srcAddr := BitVec.ofNat 32 (addr.toNat % 2 ^ s.plat.aw), srcOff := 0, srcCnt := len
      dstAddr := BitVec.ofNat 32 (out.toNat % 2 ^ s.plat.aw) }
    SourceOk m len.toNat → DestinationOk m n →
    ∃ t, StepsTo 9 s t ∧ t.pending = rest ∧
      (∀ k, k < n → t.mem.read (dstBase m + k) = mdHashByte a (sourceBytes m) k) ∧
      (∀ b, (b < dstBase m ∨ dstBase m + n ≤ b) → t.mem.read b = s.mem.read b) ∧
      t.err = .none ∧ t.alg = a ∧ t.buflen = 0 ∧ t.total = 0 ∧
      ∀ j (hj : j < 50), j < liveCount a → t.h[j] = initialWord a j

/-- The named Keccak variants (R114): each creates the instance of its row, with the row's `CHUNK` and
`DSIZE`. -/
def Obligations.NamedVariantsCreateTheirInstances : Prop :=
  ∀ (s : State) (v : KeccakVariant) (kpad : KPad) (kbits size : Nat) (outbits : Word) (rest : List HostOp),
    (v, kpad, kbits, size) ∈
      [(KeccakVariant.keccak .n224, KPad.keccak, 224, 28), (.keccak .n256, .keccak, 256, 32),
       (.keccak .n384, .keccak, 384, 48), (.keccak .n512, .keccak, 512, 64),
       (.sha3 .n224, .sha3, 224, 28), (.sha3 .n256, .sha3, 256, 32),
       (.sha3 .n384, .sha3, 384, 48), (.sha3 .n512, .sha3, 512, 64),
       (.shake .n128 outbits, .shake, 128, outbits.toNat / 8),
       (.shake .n256 outbits, .shake, 256, outbits.toNat / 8),
       (.cshake .n128 outbits, .cshake, 128, outbits.toNat / 8),
       (.cshake .n256 outbits, .cshake, 256, outbits.toNat / 8)] →
    s.pending = initVariant v ++ rest →
    (kpad = .shake ∨ kpad = .cshake → outbits.toNat % 8 = 0 ∧ 8 ≤ outbits.toNat) →
    ∃ t, StepsTo (initVariant v).length s t ∧ t.pending = rest ∧ t.err = .none ∧ t.alg = .keccak ∧
      t.kpad = kpad ∧ t.kbits.toNat = kbits ∧ dsize t = size ∧ t.h = Vector.replicate 50 0 ∧
      (kbits, chunk t) ∈ [(128, 168), (224, 144), (256, 136), (384, 104), (512, 72)]

/-! ### XF.MD5, XF.SHA1, XF.SHA256, XF.KECCAKF -/

/-- XF.MD5 (R181, R190, R191): 64 steps on the little-endian words of the source block, with the
functions of R186 to R189, the amounts of R184, the order of R185, then the feed-forward (R192). -/
def Obligations.XfMd5RunsSixtyFourSteps : Prop :=
  ∀ s : State, Running s → s.alg = .md5 → SourceOk s 64 →
    ∃ t, exec .xfMd5 s = .next t ∧
      t = { s with h := t.h, trace := s.trace ++ sourceReads s 64 } ∧
      (∀ i (hi : i < 50), 4 ≤ i → t.h[i] = s.h[i]) ∧
      ∃ a b c d : Nat → Word,
        (a 0 = s.h[0] ∧ b 0 = s.h[1] ∧ c 0 = s.h[2] ∧ d 0 = s.h[3]) ∧
        (∀ j, j < 64 →
          let f :=
            if j ≤ 15 then (b j &&& c j) ||| (~~~(b j) &&& d j)
            else if j ≤ 31 then (b j &&& d j) ||| (c j &&& ~~~(d j))
            else if j ≤ 47 then b j ^^^ c j ^^^ d j
            else c j ^^^ (b j ||| ~~~(d j))
          let g :=
            if j ≤ 15 then j else if j ≤ 31 then (5 * j + 1) % 16
            else if j ≤ 47 then (3 * j + 5) % 16 else 7 * j % 16
          let r :=
            (if j ≤ 15 then [7, 12, 17, 22] else if j ≤ 31 then [5, 9, 14, 20]
             else if j ≤ 47 then [4, 11, 16, 23] else [6, 10, 15, 21]).getD (j % 4) 0
          a (j + 1) = d j ∧ c (j + 1) = b j ∧ d (j + 1) = c j ∧
          b (j + 1) = b j + rotl32 (a j + f + blockWordLe s g + md5T.getD j 0) r) ∧
        t.h[0] = s.h[0] + a 64 ∧ t.h[1] = s.h[1] + b 64 ∧
        t.h[2] = s.h[2] + c 64 ∧ t.h[3] = s.h[3] + d 64

/-- XF.SHA1 (R211, R212 to R219): the schedule of 80 words and 80 steps. -/
def Obligations.XfSha1RunsEightySteps : Prop :=
  ∀ s : State, Running s → s.alg = .sha1 → SourceOk s 64 →
    ∃ t, exec .xfSha1 s = .next t ∧
      t = { s with h := t.h, trace := s.trace ++ sourceReads s 64 } ∧
      (∀ i (hi : i < 50), 5 ≤ i → t.h[i] = s.h[i]) ∧
      ∃ w a b c d e : Nat → Word,
        (∀ j, j < 16 → w j = blockWordBe s j) ∧
        (∀ j, 16 ≤ j → j < 80 →
          w j = rotl32 (w (j - 3) ^^^ w (j - 8) ^^^ w (j - 14) ^^^ w (j - 16)) 1) ∧
        (a 0 = s.h[0] ∧ b 0 = s.h[1] ∧ c 0 = s.h[2] ∧ d 0 = s.h[3] ∧ e 0 = s.h[4]) ∧
        (∀ j, j < 80 →
          let f :=
            if j ≤ 19 then (b j &&& c j) ||| (~~~(b j) &&& d j)
            else if j ≤ 39 then b j ^^^ c j ^^^ d j
            else if j ≤ 59 then (b j &&& c j) ||| (b j &&& d j) ||| (c j &&& d j)
            else b j ^^^ c j ^^^ d j
          let k : Word :=
            if j ≤ 19 then 0x5A827999#32 else if j ≤ 39 then 0x6ED9EBA1#32
            else if j ≤ 59 then 0x8F1BBCDC#32 else 0xCA62C1D6#32
          a (j + 1) = rotl32 (a j) 5 + e j + f + k + w j ∧ b (j + 1) = a j ∧
          c (j + 1) = rotl32 (b j) 30 ∧ d (j + 1) = c j ∧ e (j + 1) = d j) ∧
        t.h[0] = s.h[0] + a 80 ∧ t.h[1] = s.h[1] + b 80 ∧ t.h[2] = s.h[2] + c 80 ∧
        t.h[3] = s.h[3] + d 80 ∧ t.h[4] = s.h[4] + e 80

/-- XF.SHA256 (R231 to R242): the schedule of 64 words and 64 steps. -/
def Obligations.XfSha256RunsSixtyFourSteps : Prop :=
  ∀ s : State, Running s → s.alg = .sha256 → SourceOk s 64 →
    ∃ t, exec .xfSha256 s = .next t ∧
      t = { s with h := t.h, trace := s.trace ++ sourceReads s 64 } ∧
      (∀ i (hi : i < 50), 8 ≤ i → t.h[i] = s.h[i]) ∧
      ∃ w a b c d e f g h : Nat → Word,
        (∀ j, j < 16 → w j = blockWordBe s j) ∧
        (∀ j, 16 ≤ j → j < 64 →
          w j = w (j - 16)
            + (rotr32 (w (j - 15)) 7 ^^^ rotr32 (w (j - 15)) 18 ^^^ shr32 (w (j - 15)) 3)
            + w (j - 7)
            + (rotr32 (w (j - 2)) 17 ^^^ rotr32 (w (j - 2)) 19 ^^^ shr32 (w (j - 2)) 10)) ∧
        (a 0 = s.h[0] ∧ b 0 = s.h[1] ∧ c 0 = s.h[2] ∧ d 0 = s.h[3] ∧
         e 0 = s.h[4] ∧ f 0 = s.h[5] ∧ g 0 = s.h[6] ∧ h 0 = s.h[7]) ∧
        (∀ j, j < 64 →
          let t1 := h j + (rotr32 (e j) 6 ^^^ rotr32 (e j) 11 ^^^ rotr32 (e j) 25)
            + ((e j &&& f j) ^^^ (~~~(e j) &&& g j)) + sha256K.getD j 0 + w j
          let t2 := (rotr32 (a j) 2 ^^^ rotr32 (a j) 13 ^^^ rotr32 (a j) 22)
            + ((a j &&& b j) ^^^ (a j &&& c j) ^^^ (b j &&& c j))
          a (j + 1) = t1 + t2 ∧ b (j + 1) = a j ∧ c (j + 1) = b j ∧ d (j + 1) = c j ∧
          e (j + 1) = d j + t1 ∧ f (j + 1) = e j ∧ g (j + 1) = f j ∧ h (j + 1) = g j) ∧
        t.h[0] = s.h[0] + a 64 ∧ t.h[1] = s.h[1] + b 64 ∧ t.h[2] = s.h[2] + c 64 ∧
        t.h[3] = s.h[3] + d 64 ∧ t.h[4] = s.h[4] + e 64 ∧ t.h[5] = s.h[5] + f 64 ∧
        t.h[6] = s.h[6] + g 64 ∧ t.h[7] = s.h[7] + h 64

/-- XF.KECCAKF (R262, R261, R267 to R271): it runs whatever `FIN` holds and changes nothing but `H`, by 24
rounds. With `FIN = 1` the words of `H` are unspecified (R172, U5), and are left open here;
XfKeccakfAfterFinalizePermutesTheStoredDraw says what the model does there. -/
def Obligations.XfKeccakfRunsTwentyFourRounds : Prop :=
  ∀ s : State, Running s → s.alg = .keccak →
    ∃ t, exec .xfKeccakf s = .next t ∧ t = { s with h := t.h } ∧
      (s.fin = false → RunsKeccakRounds s.h t.h)

/-- "`KECCAK_F` is a bijection on the 1600 bits" (R270). -/
def Obligations.KeccakPermutationIsBijective : Prop := Function.Bijective keccakF

/-- MD5's `T` is the table of R196, and the other constant tables obey their generating rules: `K` are the first 32 bits of the fractional parts
of the cube roots of the first 64 primes (R233), `RHO` walks the lanes (R265), `PISRC` inverts the lane
move (R266), and `RC` comes from its shift register (R264). -/
def Obligations.TablesObeyTheirGeneratingRules : Prop :=
  (md5T.map BitVec.toNat =
    [0xD76AA478, 0xE8C7B756, 0x242070DB, 0xC1BDCEEE, 0xF57C0FAF, 0x4787C62A, 0xA8304613, 0xFD469501,
      0x698098D8, 0x8B44F7AF, 0xFFFF5BB1, 0x895CD7BE, 0x6B901122, 0xFD987193, 0xA679438E, 0x49B40821]
    ++ [0xF61E2562, 0xC040B340, 0x265E5A51, 0xE9B6C7AA, 0xD62F105D, 0x02441453, 0xD8A1E681, 0xE7D3FBC8,
      0x21E1CDE6, 0xC33707D6, 0xF4D50D87, 0x455A14ED, 0xA9E3E905, 0xFCEFA3F8, 0x676F02D9, 0x8D2A4C8A]
    ++ [0xFFFA3942, 0x8771F681, 0x6D9D6122, 0xFDE5380C, 0xA4BEEA44, 0x4BDECFA9, 0xF6BB4B60, 0xBEBFBC70,
      0x289B7EC6, 0xEAA127FA, 0xD4EF3085, 0x04881D05, 0xD9D4D039, 0xE6DB99E5, 0x1FA27CF8, 0xC4AC5665]
    ++ [0xF4292244, 0x432AFF97, 0xAB9423A7, 0xFC93A039, 0x655B59C3, 0x8F0CCC92, 0xFFEFF47D, 0x85845DD1,
      0x6FA87E4F, 0xFE2CE6E0, 0xA3014314, 0x4E0811A1, 0xF7537E82, 0xBD3AF235, 0x2AD7D2BB, 0xEB86D391]) ∧
  (let primes := (List.range 312).filter fun p => decide (2 ≤ p) && (List.range p).all fun d =>
      decide (d < 2) || decide (p % d ≠ 0)
   primes.length = 64 ∧ ∀ j, j < 64 → ∃ q, q % 2 ^ 32 = (sha256K.getD j 0).toNat ∧
     q ^ 3 ≤ primes.getD j 0 * 2 ^ 96 ∧ primes.getD j 0 * 2 ^ 96 < (q + 1) ^ 3) ∧
  (∃ x y : Nat → Nat, x 0 = 1 ∧ y 0 = 0 ∧ keccakRho.getD 0 0 = 0 ∧
    ∀ t, t < 24 → keccakRho.getD (x t + 5 * y t) 0 = (t + 1) * (t + 2) / 2 % 64 ∧
      x (t + 1) = y t ∧ y (t + 1) = (2 * x t + 3 * y t) % 5) ∧
  (∀ x y, x < 5 → y < 5 → keccakPiSrc.getD (y + 5 * ((2 * x + 3 * y) % 5)) 0 = x + 5 * y) ∧
  (∃ l : Nat → BitVec 8, l 0 = 1#8 ∧
    (∀ n, l (n + 1) = (l n <<< 1) ^^^ (if (l n).getLsbD 7 then 0x71#8 else 0#8)) ∧
    ∀ r, r < 24 → ∀ b, b < 64 →
      ((keccakRC.getD r 0).getLsbD b = true ↔ ∃ m, m < 7 ∧ b = 2 ^ m - 1 ∧ (l (7 * r + m)).getLsbD 0 = true))

/-- "`T[j] = floor(2^32 * |sin(j+1)|)`, `j + 1` in radians" (R183). -/
def Obligations.Md5ConstantsAreSines : Prop :=
  ∀ j : Nat, j < 64 → (md5T.getD j 0).toNat = ⌊2 ^ 32 * |Real.sin ((j : ℝ) + 1)|⌋₊

/-! ### Registers -/

/-- R97: a write to an operand register changes that register and nothing else ("The only register whose
write has a side effect is `CMD`", R69), address bits at or above `AW` being 0, and is read back; `CMD`
takes every word; a write to any other offset is ignored. -/
def Obligations.RegisterWritesReadBackOrAreIgnored : Prop :=
  ∀ (s : State) (v : Word) (off : Nat) (rest : List HostOp), off % 4 = 0 → off < 0x400 →
    s.plat.legal = true → NextWrite s off 4 v (.read off 4 :: rest) →
    let s' := { s with pending := .read off 4 :: rest }
    let low : Word := BitVec.ofNat 32 (v.toNat % 2 ^ s.plat.aw)
    let high : Word := BitVec.ofNat 32 (v.toNat % 2 ^ (s.plat.aw - 32))
    (∀ t w, (off, t, w) ∈
        [(0x010, { s' with argOutbits := v }, v), (0x014, { s' with srcAddr := low }, low),
         (0x018, { s' with srcOff := v }, v), (0x01C, { s' with srcCnt := v }, v),
         (0x020, { s' with dstAddr := low }, low), (0x024, { s' with dstLen := v }, v),
         (0x040, { s' with srcAddrHi := high }, high), (0x044, { s' with dstAddrHi := high }, high)] →
      step s = .next t ∧ step t = .next { t with pending := rest, rdata := w }) ∧
    (off = 0 → ∀ t, step s = .next t → ∃ u, step t = .next u ∧ u.rdata = v) ∧
    (off ∉ [0x000, 0x010, 0x014, 0x018, 0x01C, 0x020, 0x024, 0x040, 0x044] → step s = .next s')

/-- R98: only 32-bit accesses at a multiple of 4; the model refuses every other (log entry 10). -/
def Obligations.OddRegisterAccessesAreRefused : Prop :=
  ∀ (s : State) (off width : Nat) (v : Word) (rest : List HostOp),
    (width ≠ 4 ∨ off % 4 ≠ 0) →
    (NextWrite s off width v rest ∨ s.pending = .read off width :: rest) →
    step s = .refused .registerAccess

/-- R38 and R37: a read of `STATUS` and of `CFG`, field by field, with the numbers of R311, R32, R33. -/
def Obligations.StatusAndConfigurationFields : Prop :=
  ∀ (s : State) (rest : List HostOp),
    (s.pending = .read 0x004 4 :: rest → ∃ t, step s = .next t ∧
      t = { s with pending := rest, rdata := t.rdata } ∧
      (t.rdata.extractLsb' 0 8).toNat = errorNumber s.err ∧ t.rdata.getLsbD 8 = decide (s.alg ≠ .none) ∧
      t.rdata.getLsbD 9 = s.fin ∧ t.rdata.extractLsb' 10 22 = 0#22) ∧
    (s.pending = .read 0x00C 4 :: rest → ∃ t, step s = .next t ∧
      t = { s with pending := rest, rdata := t.rdata } ∧
      (t.rdata.extractLsb' 20 4).toNat = algorithmNumber s.alg ∧
      (t.rdata.extractLsb' 18 2).toNat = paddingNumber s.kpad ∧ t.rdata.extractLsb' 0 10 = s.kbits ∧
      t.rdata.extractLsb' 10 8 = 0#8 ∧ t.rdata.extractLsb' 24 8 = 0#8)

/-- R99: `HV[i]` of a live word is `H[i]`, of a dead one it is left open; `BUFW[k]` shows the live bytes,
lowest index in bits 7..0, and 0 elsewhere; a read changes nothing of the core (R69). -/
def Obligations.ViewsOfStateAndBuffer : Prop :=
  ∀ (s : State) (rest : List HostOp),
    (∀ i (hi : i < 50), s.pending = .read (0x100 + 4 * i) 4 :: rest → ∃ t, step s = .next t ∧
      t = { s with pending := rest, rdata := t.rdata, draws := t.draws } ∧
      (i < liveCount s.alg → t.rdata = s.h[i])) ∧
    (∀ k, k < 42 → s.pending = .read (0x200 + 4 * k) 4 :: rest → ∃ t, step s = .next t ∧
      t = { s with pending := rest, rdata := t.rdata } ∧
      ∀ j (hj : j < 4) (hk : 4 * k + j < 168), t.rdata.extractLsb' (8 * j) 8 =
        if 4 * k + j < s.buflen.toNat then s.buf[4 * k + j] else 0#8)

/-- Every other register of R96 reads as the map says; reserved offsets read 0. -/
def Obligations.ControlRegistersRead : Prop :=
  ∀ (s : State) (off : Nat) (v : Word) (rest : List HostOp),
    s.pending = .read off 4 :: rest →
    ((off, v) ∈ [(0x000, s.cmd), (0x008, s.errcmd), (0x010, s.argOutbits), (0x014, s.srcAddr),
        (0x018, s.srcOff), (0x01C, s.srcCnt), (0x020, s.dstAddr), (0x024, s.dstLen),
        (0x03C, s.outbits), (0x040, s.srcAddrHi), (0x044, s.dstAddrHi)] ∨
      (off = 0x028 ∧ v.toNat = chunk s) ∨ (off = 0x02C ∧ v.toNat = dsize s) ∨
      (off = 0x030 ∧ v.toNat = s.buflen.toNat) ∨ (off = 0x034 ∧ v.toNat = s.total.toNat % 2 ^ 32) ∨
      (off = 0x038 ∧ v.toNat = s.total.toNat / 2 ^ 32) ∨
      (off % 4 = 0 ∧ v = 0 ∧ ((0x048 ≤ off ∧ off < 0x100) ∨ (0x1C8 ≤ off ∧ off < 0x200) ∨
        (0x2A8 ≤ off ∧ off < 0x400)))) →
    step s = .next { s with pending := rest, rdata := v }

/-! ### Reset -/

/-- Hardware reset (R350): every register of R46, the memory untouched (R352); `H` and `BUF` are left open.
That the platform and the host's pending accesses stay is the model's (log entry 18). -/
def Obligations.HardwareResetClearsTheCore : Prop :=
  CoreReset State.reset ∧
  ∀ (s : State) (rest : List HostOp), s.pending = .reset :: rest →
    ∃ t, step s = .next t ∧ CoreReset t ∧ t.mem = s.mem ∧ t.plat = s.plat ∧ t.pending = rest

/-- Hardware reset during a command (R350): the core is reset, and each byte of memory is what it was or,
inside the range of a DIGEST that runs, its digest byte. The form of the access, and that the platform
and the pending accesses stay, are the model's (log entries 16 and 18). -/
def Obligations.CutCommandLeavesOldOrDigestBytes : Prop :=
  ∀ (s : State) (c : Word) (rest : List HostOp), s.mem.wf = true →
    s.pending = .cutCommand c :: rest → ¬ DeviceTouched c s →
    ∃ t, step s = .next t ∧ CoreReset t ∧ t.plat = s.plat ∧ t.pending = rest ∧
      ∀ a, t.mem.read a = s.mem.read a ∨
        (decode c = some .digest ∧ dstBase s ≤ a ∧ a < dstBase s + dsize s ∧
          ∃ u, writeCmd c { s with pending := rest } = .next u ∧ t.mem.read a = u.mem.read a)

/-! ### Rules of the whole machine -/

/-- What each command can change at all, completed or rejected (R41, R61): operand registers, `CMD`, the
platform and the host's side never; memory only DIGEST; the configuration only INIT. -/
def Obligations.CommandsChangeOnlyTheirOwnState : Prop :=
  ∀ (i : Instr) (s t : State), exec i s = .next t →
    t = { t with
      cmd := s.cmd, argOutbits := s.argOutbits, srcAddr := s.srcAddr, srcAddrHi := s.srcAddrHi,
      srcOff := s.srcOff, srcCnt := s.srcCnt, dstAddr := s.dstAddr, dstAddrHi := s.dstAddrHi,
      dstLen := s.dstLen, plat := s.plat, pending := s.pending, rdata := s.rdata } ∧
    (i ≠ .digest → t.mem = s.mem) ∧
    (isInit i = false → t.alg = s.alg ∧ t.kbits = s.kbits ∧ t.kpad = s.kpad ∧ t.outbits = s.outbits) ∧
    ((isInit i = true ∨ i = .reset ∨ i = .xfKeccakf) → t.trace = s.trace) ∧
    ((isInit i = true ∨ i = .reset ∨ transformAlg i ≠ none) → t.buf = s.buf) ∧
    (transformAlg i ≠ none → t.buflen = s.buflen ∧ t.total = s.total ∧ t.fin = s.fin) ∧
    (i = .update → t.fin = s.fin)

/-- `TOTAL` (R22): an UPDATE adds `SRC_CNT`; INIT.*, RESET, DIGEST and hardware reset set it to 0; nothing
else changes it. -/
def Obligations.TotalChangesOnlyAsListed : Prop :=
  ∀ s t : State, step s = .next t → t.total ≠ s.total →
    (∃ c rest, NextWrite s 0x000 4 c rest ∧
      ((decode c = some .update ∧ t.total = s.total + s.srcCnt.setWidth 64) ∨
       ((InitWord c ∨ decode c = some .reset ∨ decode c = some .digest) ∧ t.total = 0))) ∨
    (∃ rest, s.pending = .reset :: rest ∧ t.total = 0) ∨
    (∃ c rest, s.pending = .cutCommand c :: rest ∧ t.total = 0)

/-- Only INIT.* and hardware reset clear `ERR` (R317), and no step replaces one error by another: "it is
the oldest". -/
def Obligations.ErrorsAreStickyUntilInit : Prop :=
  ∀ s t : State, step s = .next t → s.err ≠ .none →
    (t.err = s.err ∧ t.errcmd = s.errcmd) ∨
    (t.err = .none ∧ t.errcmd = 0 ∧
      ((∃ c rest, NextWrite s 0x000 4 c rest ∧ InitWord c) ∨
       (∃ rest, s.pending = .reset :: rest) ∨ (∃ c rest, s.pending = .cutCommand c :: rest)))

/-- The configuration is written only by a successful INIT.* (R32, R33) and by hardware reset; so an
instance, once created, exists until hardware reset (R313). -/
def Obligations.ConfigurationIsWrittenOnlyByInit : Prop :=
  ∀ s t : State, step s = .next t →
    (t.alg = s.alg ∧ t.kbits = s.kbits ∧ t.kpad = s.kpad ∧ t.outbits = s.outbits) ∨
    (∃ c rest, NextWrite s 0x000 4 c rest ∧ InitWord c ∧ t.err = .none ∧ t.alg ≠ .none) ∨
    (∃ rest, s.pending = .reset :: rest) ∨ (∃ c rest, s.pending = .cutCommand c :: rest)

/-- The invariant holds after reset. -/
def Obligations.InvariantHoldsAtReset : Prop := Invariant State.reset

/-- Every step keeps the invariant, from every state that has it. -/
def Obligations.StepKeepsTheInvariant : Prop := ∀ s t : State, Invariant s → step s = .next t → Invariant t

/-- What the spec leaves unspecified and hides never shows: two states that agree but for dead words of
`H` (R27) and bytes of `BUF` at or above `BUFLEN` (R29) step to states that agree so. -/
def Obligations.HiddenStorageNeverShows : Prop :=
  ∀ s t : State, Invariant s → SameVisible s t → SameOutcome (step s) (step t)

/-- The model's choice (log entry 15, DEDUCED): after a DIGEST that finalized the instance, XF.KECCAKF
permutes the one draw that `H` holds, where U5 allows any value. -/
def Obligations.XfKeccakfAfterFinalizePermutesTheStoredDraw : Prop :=
  ∀ s : State, Running s → s.alg = .keccak → s.fin = true →
    ∃ t, exec .xfKeccakf s = .next t ∧ t = { s with h := t.h } ∧ RunsKeccakRounds s.h t.h
end

