-- ==== Sys2Proof/Laws/Bits.lean ====
section
/-! SUPPORT. Byte lists: indexing, and that a load depends on its own four bytes only. -/

namespace Sys2Proof.Machine

@[simp] theorem byteAt_nil (i : Nat) : byteAt [] i = 0 := rfl

@[simp] theorem byteAt_cons_zero (b : Byte) (bs : List Byte) : byteAt (b :: bs) 0 = b := rfl

@[simp] theorem byteAt_cons_succ (b : Byte) (bs : List Byte) (i : Nat) :
    byteAt (b :: bs) (i + 1) = byteAt bs i := by
  simp [byteAt]

theorem byteAt_append_left (xs ys : List Byte) (i : Nat) (h : i < xs.length) :
    byteAt (xs ++ ys) i = byteAt xs i := by
  simp [byteAt, List.getElem?_append_left h]

theorem byteAt_append_right (xs ys : List Byte) (i : Nat) (h : xs.length ≤ i) :
    byteAt (xs ++ ys) i = byteAt ys (i - xs.length) := by
  simp [byteAt, List.getElem?_append_right h]

theorem byteAt_eq_getElem (xs : List Byte) (i : Nat) (h : i < xs.length) : byteAt xs i = xs[i] := by
  simp [byteAt, h]

theorem byteAt_of_length_le (xs : List Byte) (i : Nat) (h : xs.length ≤ i) : byteAt xs i = 0 := by
  simp [byteAt, List.getElem?_eq_none h]

/-- Byte lists of one length are equal when their bytes are. -/
theorem byteList_ext (xs ys : List Byte) (hl : xs.length = ys.length)
    (h : ∀ i, i < xs.length → byteAt xs i = byteAt ys i) : xs = ys :=
  List.ext_getElem hl fun i h1 h2 => by
    simpa [byteAt_eq_getElem, h1, h2] using h i h1

/-- A little-endian load depends on its four bytes only. -/
theorem ld32le_congr (xs ys : List Byte) (i : Nat)
    (h : ∀ j, j < 4 → byteAt xs (i + j) = byteAt ys (i + j)) : ld32le xs i = ld32le ys i := by
  have h0 := h 0 (by omega)
  have h1 := h 1 (by omega)
  have h2 := h 2 (by omega)
  have h3 := h 3 (by omega)
  simp only [Nat.add_zero] at h0
  simp only [ld32le, h0, h1, h2, h3]

/-- A big-endian load depends on its four bytes only. -/
theorem ld32be_congr (xs ys : List Byte) (i : Nat)
    (h : ∀ j, j < 4 → byteAt xs (i + j) = byteAt ys (i + j)) : ld32be xs i = ld32be ys i := by
  have h0 := h 0 (by omega)
  have h1 := h 1 (by omega)
  have h2 := h 2 (by omega)
  have h3 := h 3 (by omega)
  simp only [Nat.add_zero] at h0
  simp only [ld32be, h0, h1, h2, h3]

@[simp] theorem length_st32le (v : Word) : (st32le v).length = 4 := rfl
@[simp] theorem length_st32be (v : Word) : (st32be v).length = 4 := rfl
@[simp] theorem length_st64le (v : Dword) : (st64le v).length = 8 := rfl
@[simp] theorem length_st64be (v : Dword) : (st64be v).length = 8 := rfl

/-- Byte `k` of a little-endian word. -/
theorem byteAt_st32le (v : Word) (k : Nat) (h : k < 4) : byteAt (st32le v) k = v.extractLsb' (8 * k) 8 := by
  match k, h with
  | 0, _ => rfl
  | 1, _ => rfl
  | 2, _ => rfl
  | 3, _ => rfl

/-- Byte `k` of a big-endian word. -/
theorem byteAt_st32be (v : Word) (k : Nat) (h : k < 4) :
    byteAt (st32be v) k = v.extractLsb' (24 - 8 * k) 8 := by
  match k, h with
  | 0, _ => rfl
  | 1, _ => rfl
  | 2, _ => rfl
  | 3, _ => rfl

/-- A byte of a word, as a shift and as a field. -/
theorem shiftRight_setWidth (v : Word) (n : Nat) : (v >>> n).setWidth 8 = v.extractLsb' n 8 := by
  apply BitVec.eq_of_getLsbD_eq; intro i hi; simp [hi]

end Sys2Proof.Machine
end

