-- ==== Sys2Proof/Laws/State.lean ====
section
/-! SUPPORT. One lemma per field per update of `State`: what each shared operation on the state does to
each field, so that no later proof unfolds a record update. -/

namespace Sys2Proof.Machine

variable (s : State)

/-! ### `raise` -/

@[simp] theorem raise_alg (e : Err) (c : Word) : (raise e c s).alg = s.alg := rfl
@[simp] theorem raise_kbits (e : Err) (c : Word) : (raise e c s).kbits = s.kbits := rfl
@[simp] theorem raise_kpad (e : Err) (c : Word) : (raise e c s).kpad = s.kpad := rfl
@[simp] theorem raise_outbits (e : Err) (c : Word) : (raise e c s).outbits = s.outbits := rfl
@[simp] theorem raise_h (e : Err) (c : Word) : (raise e c s).h = s.h := rfl
@[simp] theorem raise_buf (e : Err) (c : Word) : (raise e c s).buf = s.buf := rfl
@[simp] theorem raise_buflen (e : Err) (c : Word) : (raise e c s).buflen = s.buflen := rfl
@[simp] theorem raise_total (e : Err) (c : Word) : (raise e c s).total = s.total := rfl
@[simp] theorem raise_fin (e : Err) (c : Word) : (raise e c s).fin = s.fin := rfl
@[simp] theorem raise_err (e : Err) (c : Word) :
    (raise e c s).err = if s.err = .none then e else s.err := rfl
@[simp] theorem raise_errcmd (e : Err) (c : Word) :
    (raise e c s).errcmd = if s.err = .none then c else s.errcmd := rfl
@[simp] theorem raise_cmd (e : Err) (c : Word) : (raise e c s).cmd = s.cmd := rfl
@[simp] theorem raise_argOutbits (e : Err) (c : Word) :
    (raise e c s).argOutbits = s.argOutbits := rfl
@[simp] theorem raise_srcAddr (e : Err) (c : Word) : (raise e c s).srcAddr = s.srcAddr := rfl
@[simp] theorem raise_srcAddrHi (e : Err) (c : Word) : (raise e c s).srcAddrHi = s.srcAddrHi := rfl
@[simp] theorem raise_srcOff (e : Err) (c : Word) : (raise e c s).srcOff = s.srcOff := rfl
@[simp] theorem raise_srcCnt (e : Err) (c : Word) : (raise e c s).srcCnt = s.srcCnt := rfl
@[simp] theorem raise_dstAddr (e : Err) (c : Word) : (raise e c s).dstAddr = s.dstAddr := rfl
@[simp] theorem raise_dstAddrHi (e : Err) (c : Word) : (raise e c s).dstAddrHi = s.dstAddrHi := rfl
@[simp] theorem raise_dstLen (e : Err) (c : Word) : (raise e c s).dstLen = s.dstLen := rfl
@[simp] theorem raise_mem (e : Err) (c : Word) : (raise e c s).mem = s.mem := rfl
@[simp] theorem raise_plat (e : Err) (c : Word) : (raise e c s).plat = s.plat := rfl
@[simp] theorem raise_pending (e : Err) (c : Word) : (raise e c s).pending = s.pending := rfl
@[simp] theorem raise_rdata (e : Err) (c : Word) : (raise e c s).rdata = s.rdata := rfl
@[simp] theorem raise_trace (e : Err) (c : Word) : (raise e c s).trace = s.trace := rfl
@[simp] theorem raise_draws (e : Err) (c : Word) : (raise e c s).draws = s.draws := rfl

/-! ### `clearError` -/

@[simp] theorem clearError_alg : (clearError s).alg = s.alg := rfl
@[simp] theorem clearError_kbits : (clearError s).kbits = s.kbits := rfl
@[simp] theorem clearError_kpad : (clearError s).kpad = s.kpad := rfl
@[simp] theorem clearError_outbits : (clearError s).outbits = s.outbits := rfl
@[simp] theorem clearError_h : (clearError s).h = s.h := rfl
@[simp] theorem clearError_buf : (clearError s).buf = s.buf := rfl
@[simp] theorem clearError_buflen : (clearError s).buflen = s.buflen := rfl
@[simp] theorem clearError_total : (clearError s).total = s.total := rfl
@[simp] theorem clearError_fin : (clearError s).fin = s.fin := rfl
@[simp] theorem clearError_err : (clearError s).err = .none := rfl
@[simp] theorem clearError_errcmd : (clearError s).errcmd = 0 := rfl
@[simp] theorem clearError_cmd : (clearError s).cmd = s.cmd := rfl
@[simp] theorem clearError_argOutbits : (clearError s).argOutbits = s.argOutbits := rfl
@[simp] theorem clearError_srcAddr : (clearError s).srcAddr = s.srcAddr := rfl
@[simp] theorem clearError_srcAddrHi : (clearError s).srcAddrHi = s.srcAddrHi := rfl
@[simp] theorem clearError_srcOff : (clearError s).srcOff = s.srcOff := rfl
@[simp] theorem clearError_srcCnt : (clearError s).srcCnt = s.srcCnt := rfl
@[simp] theorem clearError_dstAddr : (clearError s).dstAddr = s.dstAddr := rfl
@[simp] theorem clearError_dstAddrHi : (clearError s).dstAddrHi = s.dstAddrHi := rfl
@[simp] theorem clearError_dstLen : (clearError s).dstLen = s.dstLen := rfl
@[simp] theorem clearError_mem : (clearError s).mem = s.mem := rfl
@[simp] theorem clearError_plat : (clearError s).plat = s.plat := rfl
@[simp] theorem clearError_pending : (clearError s).pending = s.pending := rfl
@[simp] theorem clearError_rdata : (clearError s).rdata = s.rdata := rfl
@[simp] theorem clearError_trace : (clearError s).trace = s.trace := rfl
@[simp] theorem clearError_draws : (clearError s).draws = s.draws := rfl

/-! ### `instanceReset` -/

@[simp] theorem instanceReset_alg : (instanceReset s).alg = s.alg := rfl
@[simp] theorem instanceReset_kbits : (instanceReset s).kbits = s.kbits := rfl
@[simp] theorem instanceReset_kpad : (instanceReset s).kpad = s.kpad := rfl
@[simp] theorem instanceReset_outbits : (instanceReset s).outbits = s.outbits := rfl
@[simp] theorem instanceReset_h : (instanceReset s).h = withInitial s.alg s.h := rfl
@[simp] theorem instanceReset_buf : (instanceReset s).buf = s.buf := rfl
@[simp] theorem instanceReset_buflen : (instanceReset s).buflen = 0 := rfl
@[simp] theorem instanceReset_total : (instanceReset s).total = 0 := rfl
@[simp] theorem instanceReset_fin : (instanceReset s).fin = false := rfl
@[simp] theorem instanceReset_err : (instanceReset s).err = s.err := rfl
@[simp] theorem instanceReset_errcmd : (instanceReset s).errcmd = s.errcmd := rfl
@[simp] theorem instanceReset_cmd : (instanceReset s).cmd = s.cmd := rfl
@[simp] theorem instanceReset_argOutbits : (instanceReset s).argOutbits = s.argOutbits := rfl
@[simp] theorem instanceReset_srcAddr : (instanceReset s).srcAddr = s.srcAddr := rfl
@[simp] theorem instanceReset_srcAddrHi : (instanceReset s).srcAddrHi = s.srcAddrHi := rfl
@[simp] theorem instanceReset_srcOff : (instanceReset s).srcOff = s.srcOff := rfl
@[simp] theorem instanceReset_srcCnt : (instanceReset s).srcCnt = s.srcCnt := rfl
@[simp] theorem instanceReset_dstAddr : (instanceReset s).dstAddr = s.dstAddr := rfl
@[simp] theorem instanceReset_dstAddrHi : (instanceReset s).dstAddrHi = s.dstAddrHi := rfl
@[simp] theorem instanceReset_dstLen : (instanceReset s).dstLen = s.dstLen := rfl
@[simp] theorem instanceReset_mem : (instanceReset s).mem = s.mem := rfl
@[simp] theorem instanceReset_plat : (instanceReset s).plat = s.plat := rfl
@[simp] theorem instanceReset_pending : (instanceReset s).pending = s.pending := rfl
@[simp] theorem instanceReset_rdata : (instanceReset s).rdata = s.rdata := rfl
@[simp] theorem instanceReset_trace : (instanceReset s).trace = s.trace := rfl
@[simp] theorem instanceReset_draws : (instanceReset s).draws = s.draws := rfl

/-! ### `createInstance` -/

@[simp] theorem createInstance_alg (a : Alg) (kb : BitVec 10) (kp : KPad) (o : Word) :
    (createInstance a kb kp o s).alg = a := rfl
@[simp] theorem createInstance_kbits (a : Alg) (kb : BitVec 10) (kp : KPad) (o : Word) :
    (createInstance a kb kp o s).kbits = kb := rfl
@[simp] theorem createInstance_kpad (a : Alg) (kb : BitVec 10) (kp : KPad) (o : Word) :
    (createInstance a kb kp o s).kpad = kp := rfl
@[simp] theorem createInstance_outbits (a : Alg) (kb : BitVec 10) (kp : KPad) (o : Word) :
    (createInstance a kb kp o s).outbits = o := rfl
@[simp] theorem createInstance_h (a : Alg) (kb : BitVec 10) (kp : KPad) (o : Word) :
    (createInstance a kb kp o s).h = withInitial a (freshWords s.draws) := rfl
@[simp] theorem createInstance_buf (a : Alg) (kb : BitVec 10) (kp : KPad) (o : Word) :
    (createInstance a kb kp o s).buf = s.buf := rfl
@[simp] theorem createInstance_buflen (a : Alg) (kb : BitVec 10) (kp : KPad) (o : Word) :
    (createInstance a kb kp o s).buflen = 0 := rfl
@[simp] theorem createInstance_total (a : Alg) (kb : BitVec 10) (kp : KPad) (o : Word) :
    (createInstance a kb kp o s).total = 0 := rfl
@[simp] theorem createInstance_fin (a : Alg) (kb : BitVec 10) (kp : KPad) (o : Word) :
    (createInstance a kb kp o s).fin = false := rfl
@[simp] theorem createInstance_err (a : Alg) (kb : BitVec 10) (kp : KPad) (o : Word) :
    (createInstance a kb kp o s).err = .none := rfl
@[simp] theorem createInstance_errcmd (a : Alg) (kb : BitVec 10) (kp : KPad) (o : Word) :
    (createInstance a kb kp o s).errcmd = 0 := rfl
@[simp] theorem createInstance_cmd (a : Alg) (kb : BitVec 10) (kp : KPad) (o : Word) :
    (createInstance a kb kp o s).cmd = s.cmd := rfl
@[simp] theorem createInstance_argOutbits (a : Alg) (kb : BitVec 10) (kp : KPad) (o : Word) :
    (createInstance a kb kp o s).argOutbits = s.argOutbits := rfl
@[simp] theorem createInstance_srcAddr (a : Alg) (kb : BitVec 10) (kp : KPad) (o : Word) :
    (createInstance a kb kp o s).srcAddr = s.srcAddr := rfl
@[simp] theorem createInstance_srcAddrHi (a : Alg) (kb : BitVec 10) (kp : KPad) (o : Word) :
    (createInstance a kb kp o s).srcAddrHi = s.srcAddrHi := rfl
@[simp] theorem createInstance_srcOff (a : Alg) (kb : BitVec 10) (kp : KPad) (o : Word) :
    (createInstance a kb kp o s).srcOff = s.srcOff := rfl
@[simp] theorem createInstance_srcCnt (a : Alg) (kb : BitVec 10) (kp : KPad) (o : Word) :
    (createInstance a kb kp o s).srcCnt = s.srcCnt := rfl
@[simp] theorem createInstance_dstAddr (a : Alg) (kb : BitVec 10) (kp : KPad) (o : Word) :
    (createInstance a kb kp o s).dstAddr = s.dstAddr := rfl
@[simp] theorem createInstance_dstAddrHi (a : Alg) (kb : BitVec 10) (kp : KPad) (o : Word) :
    (createInstance a kb kp o s).dstAddrHi = s.dstAddrHi := rfl
@[simp] theorem createInstance_dstLen (a : Alg) (kb : BitVec 10) (kp : KPad) (o : Word) :
    (createInstance a kb kp o s).dstLen = s.dstLen := rfl
@[simp] theorem createInstance_mem (a : Alg) (kb : BitVec 10) (kp : KPad) (o : Word) :
    (createInstance a kb kp o s).mem = s.mem := rfl
@[simp] theorem createInstance_plat (a : Alg) (kb : BitVec 10) (kp : KPad) (o : Word) :
    (createInstance a kb kp o s).plat = s.plat := rfl
@[simp] theorem createInstance_pending (a : Alg) (kb : BitVec 10) (kp : KPad) (o : Word) :
    (createInstance a kb kp o s).pending = s.pending := rfl
@[simp] theorem createInstance_rdata (a : Alg) (kb : BitVec 10) (kp : KPad) (o : Word) :
    (createInstance a kb kp o s).rdata = s.rdata := rfl
@[simp] theorem createInstance_trace (a : Alg) (kb : BitVec 10) (kp : KPad) (o : Word) :
    (createInstance a kb kp o s).trace = s.trace := rfl
@[simp] theorem createInstance_draws (a : Alg) (kb : BitVec 10) (kp : KPad) (o : Word) :
    (createInstance a kb kp o s).draws = s.draws + 50 := rfl

/-! ### `absorb` -/

@[simp] theorem absorb_alg : (absorb s).alg = s.alg := rfl
@[simp] theorem absorb_kbits : (absorb s).kbits = s.kbits := rfl
@[simp] theorem absorb_kpad : (absorb s).kpad = s.kpad := rfl
@[simp] theorem absorb_outbits : (absorb s).outbits = s.outbits := rfl
@[simp] theorem absorb_h :
    (absorb s).h = absorbBlock s.alg (chunk s) s.h (bufBlock s.buf (chunk s)) := rfl
@[simp] theorem absorb_buf : (absorb s).buf = s.buf := rfl
@[simp] theorem absorb_buflen : (absorb s).buflen = s.buflen := rfl
@[simp] theorem absorb_total : (absorb s).total = s.total := rfl
@[simp] theorem absorb_fin : (absorb s).fin = s.fin := rfl
@[simp] theorem absorb_err : (absorb s).err = s.err := rfl
@[simp] theorem absorb_errcmd : (absorb s).errcmd = s.errcmd := rfl
@[simp] theorem absorb_cmd : (absorb s).cmd = s.cmd := rfl
@[simp] theorem absorb_argOutbits : (absorb s).argOutbits = s.argOutbits := rfl
@[simp] theorem absorb_srcAddr : (absorb s).srcAddr = s.srcAddr := rfl
@[simp] theorem absorb_srcAddrHi : (absorb s).srcAddrHi = s.srcAddrHi := rfl
@[simp] theorem absorb_srcOff : (absorb s).srcOff = s.srcOff := rfl
@[simp] theorem absorb_srcCnt : (absorb s).srcCnt = s.srcCnt := rfl
@[simp] theorem absorb_dstAddr : (absorb s).dstAddr = s.dstAddr := rfl
@[simp] theorem absorb_dstAddrHi : (absorb s).dstAddrHi = s.dstAddrHi := rfl
@[simp] theorem absorb_dstLen : (absorb s).dstLen = s.dstLen := rfl
@[simp] theorem absorb_mem : (absorb s).mem = s.mem := rfl
@[simp] theorem absorb_plat : (absorb s).plat = s.plat := rfl
@[simp] theorem absorb_pending : (absorb s).pending = s.pending := rfl
@[simp] theorem absorb_rdata : (absorb s).rdata = s.rdata := rfl
@[simp] theorem absorb_trace : (absorb s).trace = s.trace := rfl
@[simp] theorem absorb_draws : (absorb s).draws = s.draws := rfl

/-! ### `markEnd` -/

@[simp] theorem markEnd_alg : (markEnd s).alg = s.alg := rfl
@[simp] theorem markEnd_kbits : (markEnd s).kbits = s.kbits := rfl
@[simp] theorem markEnd_kpad : (markEnd s).kpad = s.kpad := rfl
@[simp] theorem markEnd_outbits : (markEnd s).outbits = s.outbits := rfl
@[simp] theorem markEnd_h : (markEnd s).h = s.h := rfl
@[simp] theorem markEnd_buf :
    (markEnd s).buf = bufPut (bufFill s.buf (s.buflen.toNat + 1) 64 0) s.buflen.toNat [0x80#8] := rfl
@[simp] theorem markEnd_buflen : (markEnd s).buflen = s.buflen := rfl
@[simp] theorem markEnd_total : (markEnd s).total = s.total := rfl
@[simp] theorem markEnd_fin : (markEnd s).fin = s.fin := rfl
@[simp] theorem markEnd_err : (markEnd s).err = s.err := rfl
@[simp] theorem markEnd_errcmd : (markEnd s).errcmd = s.errcmd := rfl
@[simp] theorem markEnd_cmd : (markEnd s).cmd = s.cmd := rfl
@[simp] theorem markEnd_argOutbits : (markEnd s).argOutbits = s.argOutbits := rfl
@[simp] theorem markEnd_srcAddr : (markEnd s).srcAddr = s.srcAddr := rfl
@[simp] theorem markEnd_srcAddrHi : (markEnd s).srcAddrHi = s.srcAddrHi := rfl
@[simp] theorem markEnd_srcOff : (markEnd s).srcOff = s.srcOff := rfl
@[simp] theorem markEnd_srcCnt : (markEnd s).srcCnt = s.srcCnt := rfl
@[simp] theorem markEnd_dstAddr : (markEnd s).dstAddr = s.dstAddr := rfl
@[simp] theorem markEnd_dstAddrHi : (markEnd s).dstAddrHi = s.dstAddrHi := rfl
@[simp] theorem markEnd_dstLen : (markEnd s).dstLen = s.dstLen := rfl
@[simp] theorem markEnd_mem : (markEnd s).mem = s.mem := rfl
@[simp] theorem markEnd_plat : (markEnd s).plat = s.plat := rfl
@[simp] theorem markEnd_pending : (markEnd s).pending = s.pending := rfl
@[simp] theorem markEnd_rdata : (markEnd s).rdata = s.rdata := rfl
@[simp] theorem markEnd_trace : (markEnd s).trace = s.trace := rfl
@[simp] theorem markEnd_draws : (markEnd s).draws = s.draws := rfl

/-! ### `zeroBlock` -/

@[simp] theorem zeroBlock_alg : (zeroBlock s).alg = s.alg := rfl
@[simp] theorem zeroBlock_kbits : (zeroBlock s).kbits = s.kbits := rfl
@[simp] theorem zeroBlock_kpad : (zeroBlock s).kpad = s.kpad := rfl
@[simp] theorem zeroBlock_outbits : (zeroBlock s).outbits = s.outbits := rfl
@[simp] theorem zeroBlock_h : (zeroBlock s).h = s.h := rfl
@[simp] theorem zeroBlock_buf : (zeroBlock s).buf = bufFill s.buf 0 64 0 := rfl
@[simp] theorem zeroBlock_buflen : (zeroBlock s).buflen = s.buflen := rfl
@[simp] theorem zeroBlock_total : (zeroBlock s).total = s.total := rfl
@[simp] theorem zeroBlock_fin : (zeroBlock s).fin = s.fin := rfl
@[simp] theorem zeroBlock_err : (zeroBlock s).err = s.err := rfl
@[simp] theorem zeroBlock_errcmd : (zeroBlock s).errcmd = s.errcmd := rfl
@[simp] theorem zeroBlock_cmd : (zeroBlock s).cmd = s.cmd := rfl
@[simp] theorem zeroBlock_argOutbits : (zeroBlock s).argOutbits = s.argOutbits := rfl
@[simp] theorem zeroBlock_srcAddr : (zeroBlock s).srcAddr = s.srcAddr := rfl
@[simp] theorem zeroBlock_srcAddrHi : (zeroBlock s).srcAddrHi = s.srcAddrHi := rfl
@[simp] theorem zeroBlock_srcOff : (zeroBlock s).srcOff = s.srcOff := rfl
@[simp] theorem zeroBlock_srcCnt : (zeroBlock s).srcCnt = s.srcCnt := rfl
@[simp] theorem zeroBlock_dstAddr : (zeroBlock s).dstAddr = s.dstAddr := rfl
@[simp] theorem zeroBlock_dstAddrHi : (zeroBlock s).dstAddrHi = s.dstAddrHi := rfl
@[simp] theorem zeroBlock_dstLen : (zeroBlock s).dstLen = s.dstLen := rfl
@[simp] theorem zeroBlock_mem : (zeroBlock s).mem = s.mem := rfl
@[simp] theorem zeroBlock_plat : (zeroBlock s).plat = s.plat := rfl
@[simp] theorem zeroBlock_pending : (zeroBlock s).pending = s.pending := rfl
@[simp] theorem zeroBlock_rdata : (zeroBlock s).rdata = s.rdata := rfl
@[simp] theorem zeroBlock_trace : (zeroBlock s).trace = s.trace := rfl
@[simp] theorem zeroBlock_draws : (zeroBlock s).draws = s.draws := rfl

/-! ### `putLength` -/

@[simp] theorem putLength_alg : (putLength s).alg = s.alg := rfl
@[simp] theorem putLength_kbits : (putLength s).kbits = s.kbits := rfl
@[simp] theorem putLength_kpad : (putLength s).kpad = s.kpad := rfl
@[simp] theorem putLength_outbits : (putLength s).outbits = s.outbits := rfl
@[simp] theorem putLength_h : (putLength s).h = s.h := rfl
@[simp] theorem putLength_buf :
    (putLength s).buf = bufPut s.buf 56 (lengthField s.alg s.total) := rfl
@[simp] theorem putLength_buflen : (putLength s).buflen = s.buflen := rfl
@[simp] theorem putLength_total : (putLength s).total = s.total := rfl
@[simp] theorem putLength_fin : (putLength s).fin = s.fin := rfl
@[simp] theorem putLength_err : (putLength s).err = s.err := rfl
@[simp] theorem putLength_errcmd : (putLength s).errcmd = s.errcmd := rfl
@[simp] theorem putLength_cmd : (putLength s).cmd = s.cmd := rfl
@[simp] theorem putLength_argOutbits : (putLength s).argOutbits = s.argOutbits := rfl
@[simp] theorem putLength_srcAddr : (putLength s).srcAddr = s.srcAddr := rfl
@[simp] theorem putLength_srcAddrHi : (putLength s).srcAddrHi = s.srcAddrHi := rfl
@[simp] theorem putLength_srcOff : (putLength s).srcOff = s.srcOff := rfl
@[simp] theorem putLength_srcCnt : (putLength s).srcCnt = s.srcCnt := rfl
@[simp] theorem putLength_dstAddr : (putLength s).dstAddr = s.dstAddr := rfl
@[simp] theorem putLength_dstAddrHi : (putLength s).dstAddrHi = s.dstAddrHi := rfl
@[simp] theorem putLength_dstLen : (putLength s).dstLen = s.dstLen := rfl
@[simp] theorem putLength_mem : (putLength s).mem = s.mem := rfl
@[simp] theorem putLength_plat : (putLength s).plat = s.plat := rfl
@[simp] theorem putLength_pending : (putLength s).pending = s.pending := rfl
@[simp] theorem putLength_rdata : (putLength s).rdata = s.rdata := rfl
@[simp] theorem putLength_trace : (putLength s).trace = s.trace := rfl
@[simp] theorem putLength_draws : (putLength s).draws = s.draws := rfl

/-! ### `markKeccak` -/

@[simp] theorem markKeccak_alg : (markKeccak s).alg = s.alg := rfl
@[simp] theorem markKeccak_kbits : (markKeccak s).kbits = s.kbits := rfl
@[simp] theorem markKeccak_kpad : (markKeccak s).kpad = s.kpad := rfl
@[simp] theorem markKeccak_outbits : (markKeccak s).outbits = s.outbits := rfl
@[simp] theorem markKeccak_h : (markKeccak s).h = s.h := rfl
@[simp] theorem markKeccak_buf :
    (markKeccak s).buf =
      bufXor (bufXor (bufFill s.buf s.buflen.toNat (chunk s) 0) s.buflen.toNat (padByte s.kpad))
        (chunk s - 1) 0x80#8 := rfl
@[simp] theorem markKeccak_buflen : (markKeccak s).buflen = s.buflen := rfl
@[simp] theorem markKeccak_total : (markKeccak s).total = s.total := rfl
@[simp] theorem markKeccak_fin : (markKeccak s).fin = s.fin := rfl
@[simp] theorem markKeccak_err : (markKeccak s).err = s.err := rfl
@[simp] theorem markKeccak_errcmd : (markKeccak s).errcmd = s.errcmd := rfl
@[simp] theorem markKeccak_cmd : (markKeccak s).cmd = s.cmd := rfl
@[simp] theorem markKeccak_argOutbits : (markKeccak s).argOutbits = s.argOutbits := rfl
@[simp] theorem markKeccak_srcAddr : (markKeccak s).srcAddr = s.srcAddr := rfl
@[simp] theorem markKeccak_srcAddrHi : (markKeccak s).srcAddrHi = s.srcAddrHi := rfl
@[simp] theorem markKeccak_srcOff : (markKeccak s).srcOff = s.srcOff := rfl
@[simp] theorem markKeccak_srcCnt : (markKeccak s).srcCnt = s.srcCnt := rfl
@[simp] theorem markKeccak_dstAddr : (markKeccak s).dstAddr = s.dstAddr := rfl
@[simp] theorem markKeccak_dstAddrHi : (markKeccak s).dstAddrHi = s.dstAddrHi := rfl
@[simp] theorem markKeccak_dstLen : (markKeccak s).dstLen = s.dstLen := rfl
@[simp] theorem markKeccak_mem : (markKeccak s).mem = s.mem := rfl
@[simp] theorem markKeccak_plat : (markKeccak s).plat = s.plat := rfl
@[simp] theorem markKeccak_pending : (markKeccak s).pending = s.pending := rfl
@[simp] theorem markKeccak_rdata : (markKeccak s).rdata = s.rdata := rfl
@[simp] theorem markKeccak_trace : (markKeccak s).trace = s.trace := rfl
@[simp] theorem markKeccak_draws : (markKeccak s).draws = s.draws := rfl

/-! ### `finalizeInstance` -/

@[simp] theorem finalizeInstance_alg : (finalizeInstance s).alg = s.alg := rfl
@[simp] theorem finalizeInstance_kbits : (finalizeInstance s).kbits = s.kbits := rfl
@[simp] theorem finalizeInstance_kpad : (finalizeInstance s).kpad = s.kpad := rfl
@[simp] theorem finalizeInstance_outbits : (finalizeInstance s).outbits = s.outbits := rfl
@[simp] theorem finalizeInstance_h : (finalizeInstance s).h = freshWords s.draws := rfl
@[simp] theorem finalizeInstance_buf : (finalizeInstance s).buf = s.buf := rfl
@[simp] theorem finalizeInstance_buflen : (finalizeInstance s).buflen = 0 := rfl
@[simp] theorem finalizeInstance_total : (finalizeInstance s).total = s.total := rfl
@[simp] theorem finalizeInstance_fin : (finalizeInstance s).fin = true := rfl
@[simp] theorem finalizeInstance_err : (finalizeInstance s).err = s.err := rfl
@[simp] theorem finalizeInstance_errcmd : (finalizeInstance s).errcmd = s.errcmd := rfl
@[simp] theorem finalizeInstance_cmd : (finalizeInstance s).cmd = s.cmd := rfl
@[simp] theorem finalizeInstance_argOutbits : (finalizeInstance s).argOutbits = s.argOutbits := rfl
@[simp] theorem finalizeInstance_srcAddr : (finalizeInstance s).srcAddr = s.srcAddr := rfl
@[simp] theorem finalizeInstance_srcAddrHi : (finalizeInstance s).srcAddrHi = s.srcAddrHi := rfl
@[simp] theorem finalizeInstance_srcOff : (finalizeInstance s).srcOff = s.srcOff := rfl
@[simp] theorem finalizeInstance_srcCnt : (finalizeInstance s).srcCnt = s.srcCnt := rfl
@[simp] theorem finalizeInstance_dstAddr : (finalizeInstance s).dstAddr = s.dstAddr := rfl
@[simp] theorem finalizeInstance_dstAddrHi : (finalizeInstance s).dstAddrHi = s.dstAddrHi := rfl
@[simp] theorem finalizeInstance_dstLen : (finalizeInstance s).dstLen = s.dstLen := rfl
@[simp] theorem finalizeInstance_mem : (finalizeInstance s).mem = s.mem := rfl
@[simp] theorem finalizeInstance_plat : (finalizeInstance s).plat = s.plat := rfl
@[simp] theorem finalizeInstance_pending : (finalizeInstance s).pending = s.pending := rfl
@[simp] theorem finalizeInstance_rdata : (finalizeInstance s).rdata = s.rdata := rfl
@[simp] theorem finalizeInstance_trace : (finalizeInstance s).trace = s.trace := rfl
@[simp] theorem finalizeInstance_draws : (finalizeInstance s).draws = s.draws + 50 := rfl

/-! ### `storeOutput` -/

@[simp] theorem storeOutput_alg (a : Nat) (out : List Byte) :
    (storeOutput a out s).alg = s.alg := rfl
@[simp] theorem storeOutput_kbits (a : Nat) (out : List Byte) :
    (storeOutput a out s).kbits = s.kbits := rfl
@[simp] theorem storeOutput_kpad (a : Nat) (out : List Byte) :
    (storeOutput a out s).kpad = s.kpad := rfl
@[simp] theorem storeOutput_outbits (a : Nat) (out : List Byte) :
    (storeOutput a out s).outbits = s.outbits := rfl
@[simp] theorem storeOutput_h (a : Nat) (out : List Byte) : (storeOutput a out s).h = s.h := rfl
@[simp] theorem storeOutput_buf (a : Nat) (out : List Byte) :
    (storeOutput a out s).buf = s.buf := rfl
@[simp] theorem storeOutput_buflen (a : Nat) (out : List Byte) :
    (storeOutput a out s).buflen = s.buflen := rfl
@[simp] theorem storeOutput_total (a : Nat) (out : List Byte) :
    (storeOutput a out s).total = s.total := rfl
@[simp] theorem storeOutput_fin (a : Nat) (out : List Byte) :
    (storeOutput a out s).fin = s.fin := rfl
@[simp] theorem storeOutput_err (a : Nat) (out : List Byte) :
    (storeOutput a out s).err = s.err := rfl
@[simp] theorem storeOutput_errcmd (a : Nat) (out : List Byte) :
    (storeOutput a out s).errcmd = s.errcmd := rfl
@[simp] theorem storeOutput_cmd (a : Nat) (out : List Byte) :
    (storeOutput a out s).cmd = s.cmd := rfl
@[simp] theorem storeOutput_argOutbits (a : Nat) (out : List Byte) :
    (storeOutput a out s).argOutbits = s.argOutbits := rfl
@[simp] theorem storeOutput_srcAddr (a : Nat) (out : List Byte) :
    (storeOutput a out s).srcAddr = s.srcAddr := rfl
@[simp] theorem storeOutput_srcAddrHi (a : Nat) (out : List Byte) :
    (storeOutput a out s).srcAddrHi = s.srcAddrHi := rfl
@[simp] theorem storeOutput_srcOff (a : Nat) (out : List Byte) :
    (storeOutput a out s).srcOff = s.srcOff := rfl
@[simp] theorem storeOutput_srcCnt (a : Nat) (out : List Byte) :
    (storeOutput a out s).srcCnt = s.srcCnt := rfl
@[simp] theorem storeOutput_dstAddr (a : Nat) (out : List Byte) :
    (storeOutput a out s).dstAddr = s.dstAddr := rfl
@[simp] theorem storeOutput_dstAddrHi (a : Nat) (out : List Byte) :
    (storeOutput a out s).dstAddrHi = s.dstAddrHi := rfl
@[simp] theorem storeOutput_dstLen (a : Nat) (out : List Byte) :
    (storeOutput a out s).dstLen = s.dstLen := rfl
@[simp] theorem storeOutput_mem (a : Nat) (out : List Byte) :
    (storeOutput a out s).mem = s.mem.writeBytes a out := rfl
@[simp] theorem storeOutput_plat (a : Nat) (out : List Byte) :
    (storeOutput a out s).plat = s.plat := rfl
@[simp] theorem storeOutput_pending (a : Nat) (out : List Byte) :
    (storeOutput a out s).pending = s.pending := rfl
@[simp] theorem storeOutput_rdata (a : Nat) (out : List Byte) :
    (storeOutput a out s).rdata = s.rdata := rfl
@[simp] theorem storeOutput_trace (a : Nat) (out : List Byte) :
    (storeOutput a out s).trace = s.trace ++ writeEvents a out := rfl
@[simp] theorem storeOutput_draws (a : Nat) (out : List Byte) :
    (storeOutput a out s).draws = s.draws := rfl

/-! ### `logReads` -/

@[simp] theorem logReads_alg (a : Nat) (bs : List Byte) : (logReads a bs s).alg = s.alg := rfl
@[simp] theorem logReads_kbits (a : Nat) (bs : List Byte) : (logReads a bs s).kbits = s.kbits := rfl
@[simp] theorem logReads_kpad (a : Nat) (bs : List Byte) : (logReads a bs s).kpad = s.kpad := rfl
@[simp] theorem logReads_outbits (a : Nat) (bs : List Byte) :
    (logReads a bs s).outbits = s.outbits := rfl
@[simp] theorem logReads_h (a : Nat) (bs : List Byte) : (logReads a bs s).h = s.h := rfl
@[simp] theorem logReads_buf (a : Nat) (bs : List Byte) : (logReads a bs s).buf = s.buf := rfl
@[simp] theorem logReads_buflen (a : Nat) (bs : List Byte) :
    (logReads a bs s).buflen = s.buflen := rfl
@[simp] theorem logReads_total (a : Nat) (bs : List Byte) : (logReads a bs s).total = s.total := rfl
@[simp] theorem logReads_fin (a : Nat) (bs : List Byte) : (logReads a bs s).fin = s.fin := rfl
@[simp] theorem logReads_err (a : Nat) (bs : List Byte) : (logReads a bs s).err = s.err := rfl
@[simp] theorem logReads_errcmd (a : Nat) (bs : List Byte) :
    (logReads a bs s).errcmd = s.errcmd := rfl
@[simp] theorem logReads_cmd (a : Nat) (bs : List Byte) : (logReads a bs s).cmd = s.cmd := rfl
@[simp] theorem logReads_argOutbits (a : Nat) (bs : List Byte) :
    (logReads a bs s).argOutbits = s.argOutbits := rfl
@[simp] theorem logReads_srcAddr (a : Nat) (bs : List Byte) :
    (logReads a bs s).srcAddr = s.srcAddr := rfl
@[simp] theorem logReads_srcAddrHi (a : Nat) (bs : List Byte) :
    (logReads a bs s).srcAddrHi = s.srcAddrHi := rfl
@[simp] theorem logReads_srcOff (a : Nat) (bs : List Byte) :
    (logReads a bs s).srcOff = s.srcOff := rfl
@[simp] theorem logReads_srcCnt (a : Nat) (bs : List Byte) :
    (logReads a bs s).srcCnt = s.srcCnt := rfl
@[simp] theorem logReads_dstAddr (a : Nat) (bs : List Byte) :
    (logReads a bs s).dstAddr = s.dstAddr := rfl
@[simp] theorem logReads_dstAddrHi (a : Nat) (bs : List Byte) :
    (logReads a bs s).dstAddrHi = s.dstAddrHi := rfl
@[simp] theorem logReads_dstLen (a : Nat) (bs : List Byte) :
    (logReads a bs s).dstLen = s.dstLen := rfl
@[simp] theorem logReads_mem (a : Nat) (bs : List Byte) : (logReads a bs s).mem = s.mem := rfl
@[simp] theorem logReads_plat (a : Nat) (bs : List Byte) : (logReads a bs s).plat = s.plat := rfl
@[simp] theorem logReads_pending (a : Nat) (bs : List Byte) :
    (logReads a bs s).pending = s.pending := rfl
@[simp] theorem logReads_rdata (a : Nat) (bs : List Byte) : (logReads a bs s).rdata = s.rdata := rfl
@[simp] theorem logReads_trace (a : Nat) (bs : List Byte) :
    (logReads a bs s).trace = s.trace ++ readEvents a bs := rfl
@[simp] theorem logReads_draws (a : Nat) (bs : List Byte) : (logReads a bs s).draws = s.draws := rfl

/-! ### `readReg` -/

@[simp] theorem readReg_alg (r : Reg) : (readReg r s).alg = s.alg := rfl
@[simp] theorem readReg_kbits (r : Reg) : (readReg r s).kbits = s.kbits := rfl
@[simp] theorem readReg_kpad (r : Reg) : (readReg r s).kpad = s.kpad := rfl
@[simp] theorem readReg_outbits (r : Reg) : (readReg r s).outbits = s.outbits := rfl
@[simp] theorem readReg_h (r : Reg) : (readReg r s).h = s.h := rfl
@[simp] theorem readReg_buf (r : Reg) : (readReg r s).buf = s.buf := rfl
@[simp] theorem readReg_buflen (r : Reg) : (readReg r s).buflen = s.buflen := rfl
@[simp] theorem readReg_total (r : Reg) : (readReg r s).total = s.total := rfl
@[simp] theorem readReg_fin (r : Reg) : (readReg r s).fin = s.fin := rfl
@[simp] theorem readReg_err (r : Reg) : (readReg r s).err = s.err := rfl
@[simp] theorem readReg_errcmd (r : Reg) : (readReg r s).errcmd = s.errcmd := rfl
@[simp] theorem readReg_cmd (r : Reg) : (readReg r s).cmd = s.cmd := rfl
@[simp] theorem readReg_argOutbits (r : Reg) : (readReg r s).argOutbits = s.argOutbits := rfl
@[simp] theorem readReg_srcAddr (r : Reg) : (readReg r s).srcAddr = s.srcAddr := rfl
@[simp] theorem readReg_srcAddrHi (r : Reg) : (readReg r s).srcAddrHi = s.srcAddrHi := rfl
@[simp] theorem readReg_srcOff (r : Reg) : (readReg r s).srcOff = s.srcOff := rfl
@[simp] theorem readReg_srcCnt (r : Reg) : (readReg r s).srcCnt = s.srcCnt := rfl
@[simp] theorem readReg_dstAddr (r : Reg) : (readReg r s).dstAddr = s.dstAddr := rfl
@[simp] theorem readReg_dstAddrHi (r : Reg) : (readReg r s).dstAddrHi = s.dstAddrHi := rfl
@[simp] theorem readReg_dstLen (r : Reg) : (readReg r s).dstLen = s.dstLen := rfl
@[simp] theorem readReg_mem (r : Reg) : (readReg r s).mem = s.mem := rfl
@[simp] theorem readReg_plat (r : Reg) : (readReg r s).plat = s.plat := rfl
@[simp] theorem readReg_pending (r : Reg) : (readReg r s).pending = s.pending := rfl
@[simp] theorem readReg_rdata (r : Reg) : (readReg r s).rdata = regValue r s := rfl
@[simp] theorem readReg_trace (r : Reg) : (readReg r s).trace = s.trace := rfl
@[simp] theorem readReg_draws (r : Reg) : (readReg r s).draws = s.draws + regDraws r s := rfl

/-! ### `pushByte` (its `h`, `buf` and `buflen` are in Laws/Engine.lean) -/

@[simp] theorem pushByte_alg (b : Byte) : (pushByte s b).alg = s.alg := rfl
@[simp] theorem pushByte_kbits (b : Byte) : (pushByte s b).kbits = s.kbits := rfl
@[simp] theorem pushByte_kpad (b : Byte) : (pushByte s b).kpad = s.kpad := rfl
@[simp] theorem pushByte_outbits (b : Byte) : (pushByte s b).outbits = s.outbits := rfl
@[simp] theorem pushByte_total (b : Byte) : (pushByte s b).total = s.total := rfl
@[simp] theorem pushByte_fin (b : Byte) : (pushByte s b).fin = s.fin := rfl
@[simp] theorem pushByte_err (b : Byte) : (pushByte s b).err = s.err := rfl
@[simp] theorem pushByte_errcmd (b : Byte) : (pushByte s b).errcmd = s.errcmd := rfl
@[simp] theorem pushByte_cmd (b : Byte) : (pushByte s b).cmd = s.cmd := rfl
@[simp] theorem pushByte_argOutbits (b : Byte) : (pushByte s b).argOutbits = s.argOutbits := rfl
@[simp] theorem pushByte_srcAddr (b : Byte) : (pushByte s b).srcAddr = s.srcAddr := rfl
@[simp] theorem pushByte_srcAddrHi (b : Byte) : (pushByte s b).srcAddrHi = s.srcAddrHi := rfl
@[simp] theorem pushByte_srcOff (b : Byte) : (pushByte s b).srcOff = s.srcOff := rfl
@[simp] theorem pushByte_srcCnt (b : Byte) : (pushByte s b).srcCnt = s.srcCnt := rfl
@[simp] theorem pushByte_dstAddr (b : Byte) : (pushByte s b).dstAddr = s.dstAddr := rfl
@[simp] theorem pushByte_dstAddrHi (b : Byte) : (pushByte s b).dstAddrHi = s.dstAddrHi := rfl
@[simp] theorem pushByte_dstLen (b : Byte) : (pushByte s b).dstLen = s.dstLen := rfl
@[simp] theorem pushByte_mem (b : Byte) : (pushByte s b).mem = s.mem := rfl
@[simp] theorem pushByte_plat (b : Byte) : (pushByte s b).plat = s.plat := rfl
@[simp] theorem pushByte_pending (b : Byte) : (pushByte s b).pending = s.pending := rfl
@[simp] theorem pushByte_rdata (b : Byte) : (pushByte s b).rdata = s.rdata := rfl
@[simp] theorem pushByte_trace (b : Byte) : (pushByte s b).trace = s.trace := rfl
@[simp] theorem pushByte_draws (b : Byte) : (pushByte s b).draws = s.draws := rfl

/-! ### `hardReset` -/

@[simp] theorem hardReset_alg : (hardReset s).alg = .none := rfl
@[simp] theorem hardReset_kbits : (hardReset s).kbits = 0 := rfl
@[simp] theorem hardReset_kpad : (hardReset s).kpad = .keccak := rfl
@[simp] theorem hardReset_outbits : (hardReset s).outbits = 0 := rfl
@[simp] theorem hardReset_h : (hardReset s).h = freshWords s.draws := rfl
@[simp] theorem hardReset_buf : (hardReset s).buf = freshBytes (s.draws + 50) := rfl
@[simp] theorem hardReset_buflen : (hardReset s).buflen = 0 := rfl
@[simp] theorem hardReset_total : (hardReset s).total = 0 := rfl
@[simp] theorem hardReset_fin : (hardReset s).fin = false := rfl
@[simp] theorem hardReset_err : (hardReset s).err = .none := rfl
@[simp] theorem hardReset_errcmd : (hardReset s).errcmd = 0 := rfl
@[simp] theorem hardReset_cmd : (hardReset s).cmd = 0 := rfl
@[simp] theorem hardReset_argOutbits : (hardReset s).argOutbits = 0 := rfl
@[simp] theorem hardReset_srcAddr : (hardReset s).srcAddr = 0 := rfl
@[simp] theorem hardReset_srcAddrHi : (hardReset s).srcAddrHi = 0 := rfl
@[simp] theorem hardReset_srcOff : (hardReset s).srcOff = 0 := rfl
@[simp] theorem hardReset_srcCnt : (hardReset s).srcCnt = 0 := rfl
@[simp] theorem hardReset_dstAddr : (hardReset s).dstAddr = 0 := rfl
@[simp] theorem hardReset_dstAddrHi : (hardReset s).dstAddrHi = 0 := rfl
@[simp] theorem hardReset_dstLen : (hardReset s).dstLen = 0 := rfl
@[simp] theorem hardReset_mem : (hardReset s).mem = s.mem := rfl
@[simp] theorem hardReset_plat : (hardReset s).plat = s.plat := rfl
@[simp] theorem hardReset_pending : (hardReset s).pending = s.pending := rfl
@[simp] theorem hardReset_rdata : (hardReset s).rdata = s.rdata := rfl
@[simp] theorem hardReset_trace : (hardReset s).trace = s.trace := rfl
@[simp] theorem hardReset_draws : (hardReset s).draws = s.draws + 218 := rfl

end Sys2Proof.Machine
end

