-- ==== Sys2Proof/Laws/Memory.lean ====
section
/-! SUPPORT. Host data memory: what a store does to a later read, that every operation keeps the canonical
form and the address bound, and what the events of a transfer are. -/

namespace Sys2Proof.Machine

/-! ### One byte -/

theorem Memory.wf_iff (m : Memory) :
    m.wf = true ↔ (m.Pairwise fun p q => p.1 < q.1) ∧ ∀ p ∈ m, p.2 ≠ Memory.fill := by
  simp [Memory.wf]

@[simp] theorem Memory.wf_nil : Memory.wf [] = true := by simp [Memory.wf_iff]

theorem Memory.wf_cons (k : Nat) (w : Byte) (m : Memory) :
    Memory.wf ((k, w) :: m) = true ↔
      (∀ p ∈ m, k < p.1) ∧ w ≠ Memory.fill ∧ m.wf = true := by
  simp only [Memory.wf_iff, List.pairwise_cons, List.forall_mem_cons]; tauto

/-- Nothing is listed at an address below every listed one. -/
theorem Memory.read_below (m : Memory) (a : Nat) (h : ∀ p ∈ m, a < p.1) : m.read a = Memory.fill := by
  induction m with
  | nil => rfl
  | cons p m ih =>
    have hp := h p (by simp)
    simp only [Memory.read, show p.1 ≠ a by omega, ↓reduceIte]
    exact ih fun q hq => h q (by simp [hq])

/-- The addresses listed after a store are old ones, or the one stored to. -/
theorem Memory.mem_write (m : Memory) (a : Nat) (v : Byte) (p : Nat × Byte) (h : p ∈ m.write a v) :
    p ∈ m ∨ p = (a, v) := by
  induction m with
  | nil =>
    simp only [Memory.write] at h; split at h <;> simp_all
  | cons q m ih =>
    simp only [Memory.write] at h
    split at h
    · split at h <;> simp_all; tauto
    · split at h
      · split at h <;> simp_all; tauto
      · simp only [List.mem_cons] at h ⊢; tauto

/-- A store keeps the canonical form. -/
theorem Memory.write_wf (m : Memory) (a : Nat) (v : Byte) (h : m.wf = true) : (m.write a v).wf = true := by
  induction m with
  | nil => by_cases hv : v = Memory.fill <;> simp [Memory.write, Memory.wf_cons, hv]
  | cons q m ih =>
    obtain ⟨k, w⟩ := q
    have hm := (Memory.wf_cons k w m).1 h
    simp only [Memory.write]
    split
    · split
      · exact h
      · refine (Memory.wf_cons a v _).2 ⟨?_, ‹_›, h⟩
        simp only [List.forall_mem_cons]
        exact ⟨‹_›, fun p hp => lt_trans ‹_› (hm.1 p hp)⟩
    · split
      · split
        · exact hm.2.2
        · exact (Memory.wf_cons a v m).2 ⟨fun p hp => by have := hm.1 p hp; omega, ‹_›, hm.2.2⟩
      · refine (Memory.wf_cons k w _).2 ⟨fun p hp => ?_, hm.2.1, ih hm.2.2⟩
        obtain hp | rfl := Memory.mem_write m a v p hp
        · exact hm.1 p hp
        · simp only; omega

/-- The byte stored reads back; every other byte reads as before. -/
theorem Memory.read_write (m : Memory) (a b : Nat) (v : Byte) (h : m.wf = true) :
    (m.write a v).read b = if b = a then v else m.read b := by
  induction m with
  | nil =>
    by_cases hv : v = Memory.fill <;> simp [Memory.write, Memory.read, hv, eq_comm]
  | cons q m ih =>
    obtain ⟨k, w⟩ := q
    have hm := (Memory.wf_cons k w m).1 h
    have hbelow : ∀ c, c ≤ k → Memory.read m c = Memory.fill := fun c hc =>
      Memory.read_below m c fun p hp => lt_of_le_of_lt hc (hm.1 p hp)
    simp only [Memory.write]
    split
    · by_cases hb : b = a
      · subst hb
        split <;> simp_all [Memory.read, show k ≠ b by omega, hbelow b (by omega)]
      · split <;> simp [Memory.read, Ne.symm hb]
    · split
      · subst ‹a = k›
        by_cases hb : b = a
        · subst hb; split <;> simp_all [Memory.read, hbelow b (by omega)]
        · split <;> simp [Memory.read, Ne.symm hb]
      · simp only [Memory.read, ih hm.2.2]
        by_cases hk : k = b
        · subst hk; simp [Ne.symm ‹¬a = k›]
        · simp [hk]

@[simp] theorem Memory.read_nil (a : Nat) : Memory.read [] a = Memory.fill := rfl

/-! ### Ranges -/

@[simp] theorem Memory.length_readBytes (m : Memory) (a n : Nat) : (m.readBytes a n).length = n := by
  simp [Memory.readBytes]

theorem Memory.getElem_readBytes (m : Memory) (a n k : Nat) (h : k < (m.readBytes a n).length) :
    (m.readBytes a n)[k] = m.read (a + k) := by
  simp [Memory.readBytes]

@[simp] theorem byteAt_readBytes (m : Memory) (a n k : Nat) (h : k < n) :
    byteAt (m.readBytes a n) k = m.read (a + k) := by
  simp [byteAt, Memory.readBytes, h]

@[simp] theorem Memory.readBytes_zero (m : Memory) (a : Nat) : m.readBytes a 0 = [] := rfl

theorem Memory.readBytes_add (m : Memory) (a n k : Nat) :
    m.readBytes a (n + k) = m.readBytes a n ++ m.readBytes (a + n) k := by
  simp [Memory.readBytes, List.range_add, Nat.add_assoc]

@[simp] theorem Memory.writeBytes_nil (m : Memory) (a : Nat) : m.writeBytes a [] = m := rfl

theorem Memory.writeBytes_wf (m : Memory) (a : Nat) (vs : List Byte) (h : m.wf = true) :
    (m.writeBytes a vs).wf = true := by
  induction vs generalizing m a with
  | nil => exact h
  | cons v vs ih => exact ih _ _ (Memory.write_wf m a v h)

/-- Bytes stored from `a` upward read back in their range; every byte outside it reads as before. -/
theorem Memory.read_writeBytes (m : Memory) (a b : Nat) (vs : List Byte) (h : m.wf = true) :
    (m.writeBytes a vs).read b =
      if a ≤ b ∧ b < a + vs.length then byteAt vs (b - a) else m.read b := by
  induction vs generalizing m a with
  | nil => simp [show ¬ (a ≤ b ∧ b < a) by omega]
  | cons v vs ih =>
    simp only [Memory.writeBytes, ih _ _ (Memory.write_wf m a v h), Memory.read_write m a b v h,
      List.length_cons]
    by_cases h1 : b = a
    · subst h1; simp [byteAt]
    · by_cases h2 : a + 1 ≤ b ∧ b < a + 1 + vs.length
      · rw [if_pos h2, if_pos (by omega)]
        obtain ⟨c, hc⟩ : ∃ c, b - a = c + 1 := ⟨b - a - 1, by omega⟩
        simp [byteAt, hc, show b - (a + 1) = c by omega]
      · rw [if_neg h2, if_neg h1, if_neg (by omega)]

/-- A store keeps every listed address below a bound. -/
theorem Memory.write_bound (m : Memory) (a : Nat) (v : Byte) (n : Nat) (ha : a < n)
    (h : ∀ p ∈ m, p.1 < n) : ∀ p ∈ m.write a v, p.1 < n := by
  intro p hp
  obtain hp | rfl := Memory.mem_write m a v p hp
  · exact h p hp
  · exact ha

theorem Memory.writeBytes_bound (m : Memory) (a : Nat) (vs : List Byte) (n : Nat)
    (ha : vs = [] ∨ a + vs.length ≤ n) (h : ∀ p ∈ m, p.1 < n) :
    ∀ p ∈ m.writeBytes a vs, p.1 < n := by
  induction vs generalizing m a with
  | nil => exact h
  | cons v vs ih =>
    simp only [List.length_cons, reduceCtorEq, false_or] at ha
    exact ih _ _ (.inr (by omega)) (Memory.write_bound m a v n (by omega) h)

/-! ### Events -/

@[simp] theorem readEvents_nil (a : Nat) : readEvents a [] = [] := rfl

@[simp] theorem writeEvents_nil (a : Nat) : writeEvents a [] = [] := rfl

/-- The events of a read of `n` bytes of memory. -/
theorem readEvents_readBytes (m : Memory) (a n : Nat) :
    readEvents a (m.readBytes a n) = (List.range n).map fun k => .read (a + k) (m.read (a + k)) := by
  apply List.ext_getElem <;> simp [readEvents, Memory.readBytes]

/-- The events of a store of a byte list. -/
theorem writeEvents_eq (a : Nat) (vs : List Byte) :
    writeEvents a vs = (List.range vs.length).map fun k => .write (a + k) (byteAt vs k) := by
  apply List.ext_getElem
  · simp [writeEvents]
  · intro k h1 h2
    simp only [writeEvents, List.length_map, List.length_zipIdx] at h1
    simp [writeEvents, byteAt, h1]

end Sys2Proof.Machine
end

