-- ==== Sys2Proof/Laws/Ops.lean ====
section
/-! SUPPORT. One inversion lemma for each shared check: what the outcome can be, said once. -/

namespace Sys2Proof.Machine

/-! ### `raise` -/

theorem raise_of_none (e : Err) (c : Word) (s : State) (h : s.err = .none) :
    raise e c s = { s with err := e, errcmd := c } := by
  simp [raise, h]

theorem raise_of_err (e : Err) (c : Word) (s : State) (h : s.err ≠ .none) : raise e c s = s := by
  simp [raise, h]

/-- A rejected command keeps everything but `ERR` and `ERRCMD` (R315). -/
theorem raise_eq (e : Err) (c : Word) (s : State) :
    raise e c s = { s with err := (raise e c s).err, errcmd := (raise e c s).errcmd } := rfl

/-! ### Checks -/

@[simp] theorem check_true (e : Err) (i : Instr) (s : State) (go : Outcome) : check true e i s go = go := rfl

@[simp] theorem check_false (e : Err) (i : Instr) (s : State) (go : Outcome) :
    check false e i s go = .next (raise e (encode i) s) := rfl

/-- One check: it went on, or it raised. -/
theorem check_next {ok : Bool} {e : Err} {i : Instr} {s t : State} {go : Outcome}
    (h : check ok e i s go = .next t) :
    (ok = true ∧ go = .next t) ∨ (ok = false ∧ t = raise e (encode i) s) := by
  cases ok
  · exact .inr ⟨rfl, by simpa [eq_comm] using h⟩
  · exact .inl ⟨rfl, h⟩

/-- The common gates: the command went on, or it was ignored, or rejected for want of an instance. -/
theorem commonGates_next {i : Instr} {s t : State} {go : Outcome} (h : commonGates i s go = .next t) :
    (s.err = .none ∧ s.alg ≠ .none ∧ go = .next t) ∨ (s.err ≠ .none ∧ t = s) ∨
    (s.err = .none ∧ s.alg = .none ∧ t = raise .notCreated (encode i) s) := by
  unfold commonGates at h
  split at h
  · obtain ⟨h1, h2⟩ | ⟨h1, h2⟩ := check_next h
    · exact .inl ⟨‹_›, of_decide_eq_true h1, h2⟩
    · exact .inr (.inr ⟨‹_›, not_not.1 (of_decide_eq_false h1), h2⟩)
  · exact .inr (.inl ⟨‹_›, by simpa [eq_comm] using h⟩)

theorem commonGates_of_running {i : Instr} {s : State} {go : Outcome} (h : s.err = .none)
    (ha : s.alg ≠ .none) : commonGates i s go = go := by
  simp [commonGates, h, ha]

theorem commonGates_of_err {i : Instr} {s : State} {go : Outcome} (h : s.err ≠ .none) :
    commonGates i s go = .next s := by
  simp [commonGates, h]

/-- The memory checks: they passed, or one raised `ERR_RANGE` or `ERR_BUS`. -/
theorem checkMemory_next {reach : Nat → Bool} {base n : Nat} {i : Instr} {s t : State} {go : Outcome}
    (h : checkMemory reach base n i s go = .next t) :
    (rangeOk s base n = true ∧ everyAddress reach base n = true ∧
      everyAddress (notDevice s.plat) base n = true ∧ go = .next t) ∨
    (rangeOk s base n = false ∧ t = raise .range (encode i) s) ∨
    (rangeOk s base n = true ∧ everyAddress reach base n = false ∧ t = raise .bus (encode i) s) := by
  unfold checkMemory at h
  obtain ⟨h1, h2⟩ | ⟨h1, h2⟩ := check_next h
  · obtain ⟨h3, h4⟩ | ⟨h3, h4⟩ := check_next h2
    · split at h4
      · exact .inl ⟨h1, h3, ‹_›, h4⟩
      · cases h4
    · exact .inr (.inr ⟨h1, h3, h4⟩)
  · exact .inr (.inl ⟨h1, h2⟩)

/-- The memory checks pass when each does. -/
theorem checkMemory_pass {reach : Nat → Bool} {base n : Nat} {i : Instr} {s : State} {go : Outcome}
    (h1 : rangeOk s base n = true) (h2 : everyAddress reach base n = true)
    (h3 : everyAddress (notDevice s.plat) base n = true) : checkMemory reach base n i s go = go := by
  simp [checkMemory, h1, h2, h3]

theorem everyAddress_iff (p : Nat → Bool) (base n : Nat) :
    everyAddress p base n = true ↔ ∀ a, base ≤ a → a < base + n → p a = true := by
  simp only [everyAddress, List.all_eq_true, List.mem_range]
  refine ⟨fun h a h1 h2 => ?_, fun h k hk => h _ (by omega) (by omega)⟩
  have := h (a - base) (by omega)
  rwa [show base + (a - base) = a by omega] at this

theorem rangeOk_iff (s : State) (base n : Nat) :
    rangeOk s base n = true ↔ (0 < n → base + n ≤ 2 ^ s.plat.aw) := by
  simp only [rangeOk, Bool.or_eq_true, decide_eq_true_eq]
  constructor
  · intro h hn; omega
  · intro h; by_cases hn : n = 0
    · exact .inl hn
    · exact .inr (h (by omega))

/-- The checks of an access range pass when it fits and every byte of it is reachable and ordinary. -/
theorem checkMemory_of_ok {reach : Nat → Bool} {base n : Nat} {i : Instr} {s : State} {go : Outcome}
    (h1 : 0 < n → base + n ≤ 2 ^ s.plat.aw)
    (h2 : ∀ a, base ≤ a → a < base + n → reach a = true ∧ notDevice s.plat a = true) :
    checkMemory reach base n i s go = go :=
  checkMemory_pass ((rangeOk_iff s base n).2 h1)
    ((everyAddress_iff _ _ _).2 fun a ha hb => (h2 a ha hb).1)
    ((everyAddress_iff _ _ _).2 fun a ha hb => (h2 a ha hb).2)

/-! ### `H` and `BUF` -/

@[simp] theorem getElem_firstWords (n : Nat) (hn : n ≤ 50) (h : Vector Word 50) (i : Nat) (hi : i < n) :
    (firstWords n hn h)[i] = h[i] := by
  simp [firstWords]

@[simp] theorem getElem_storeWords {n : Nat} (h : Vector Word 50) (ws : Vector Word n) (i : Nat)
    (hi : i < 50) : (storeWords h ws)[i] = if hn : i < n then ws[i] else h[i] := by
  simp [storeWords]

theorem wordAt_eq (h : Vector Word 50) (i : Nat) (hi : i < 50) : wordAt h i = h[i] := by
  simp [wordAt, hi]

@[simp] theorem getElem_bufFill (buf : Vector Byte 168) (lo hi : Nat) (v : Byte) (k : Nat) (hk : k < 168) :
    (bufFill buf lo hi v)[k] = if lo ≤ k ∧ k < hi then v else buf[k] := by
  unfold bufFill; rw [Vector.getElem_ofFn]

@[simp] theorem getElem_bufPut (buf : Vector Byte 168) (start : Nat) (vs : List Byte) (k : Nat)
    (hk : k < 168) : (bufPut buf start vs)[k] =
      if start ≤ k ∧ k < start + vs.length then byteAt vs (k - start) else buf[k] := by
  unfold bufPut; rw [Vector.getElem_ofFn]

@[simp] theorem getElem_bufXor (buf : Vector Byte 168) (p : Nat) (v : Byte) (k : Nat) (hk : k < 168) :
    (bufXor buf p v)[k] = if k = p then buf[k] ^^^ v else buf[k] := by
  unfold bufXor; rw [Vector.getElem_ofFn]

/-- The words of a vector of 50 agree. -/
theorem words_ext (g h : Vector Word 50) (e : ∀ i (hi : i < 50), g[i] = h[i]) : g = h :=
  Vector.ext e

end Sys2Proof.Machine
end

