-- ==== Sys2Proof/Laws/Engine.lean ====
section
/-! SUPPORT. The buffer engine and the transforms: which words of `H` a block changes and depends on, what one
byte does to the buffer, and the frames of the engine's operations. -/

namespace Sys2Proof.Machine

/-! ### `CHUNK` and `DSIZE` -/

theorem kbitsLegal_iff (k : Nat) : kbitsLegal k = true ↔ k ∈ [128, 224, 256, 384, 512] := by
  simp [kbitsLegal]

theorem liveCount_le (a : Alg) : liveCount a ≤ 50 := by cases a <;> simp [liveCount]

@[simp] theorem chunkOf_keccak_ofNat (k : Nat) (h : kbitsLegal k = true) :
    chunkOf .keccak (BitVec.ofNat 10 k) = (1600 - 2 * k) / 8 := by
  rw [kbitsLegal_iff] at h
  fin_cases h <;> rfl

/-- The block sizes of the spec (R35, R281). -/
theorem chunkOf_mem (a : Alg) (kbits : BitVec 10) (ha : a ≠ .none)
    (hk : a = .keccak → kbitsLegal kbits.toNat = true) :
    chunkOf a kbits ∈ [64, 72, 104, 136, 144, 168] := by
  cases a
  · exact absurd rfl ha
  · simp [chunkOf]
  · simp [chunkOf]
  · simp [chunkOf]
  · have h := (kbitsLegal_iff _).1 (hk rfl)
    simp only [List.mem_cons, List.not_mem_nil, or_false] at h
    rcases h with h | h | h | h | h <;> simp [chunkOf, h]

theorem chunk_mem (s : State) (h : Invariant s) (ha : s.alg ≠ .none) :
    chunk s ∈ [64, 72, 104, 136, 144, 168] :=
  chunkOf_mem s.alg s.kbits ha fun hk => (h.keccak hk).1

theorem chunk_le (s : State) (h : Invariant s) : chunk s ≤ 168 := by
  by_cases ha : s.alg = .none
  · simp [chunk, chunkOf, ha]
  · have := chunk_mem s h ha
    simp only [List.mem_cons, List.not_mem_nil, or_false] at this
    omega

theorem chunk_md (s : State) (ha : s.alg ≠ .none) (hk : s.alg ≠ .keccak) : chunk s = 64 := by
  unfold chunk chunkOf; cases h : s.alg <;> simp_all

/-! ### One block -/

@[simp] theorem getElem_withInitial (a : Alg) (rest : Vector Word 50) (i : Nat) (hi : i < 50) :
    (withInitial a rest)[i] = if i < liveCount a then initialWord a i else rest[i] := by
  simp [withInitial]

theorem withInitial_keccak (rest : Vector Word 50) : withInitial .keccak rest = Vector.replicate 50 0 :=
  words_ext _ _ fun i hi => by simp [hi, liveCount, initialWord]

/-- Word `k` after the XOR of a block (R280). -/
theorem xorBlock_getElem (n : Nat) (h : Vector Word 50) (block : List Byte) (k : Nat) (hk : k < 50) :
    (xorBlock n h block)[k] = if k < n / 4 then h[k] ^^^ ld32le block (4 * k) else h[k] := by
  unfold xorBlock
  simp

/-- A block leaves the dead words of `H` alone. -/
theorem absorbBlock_dead (a : Alg) (n : Nat) (h : Vector Word 50) (block : List Byte) (i : Nat) (hi : i < 50)
    (hl : liveCount a ≤ i) : (absorbBlock a n h block)[i] = h[i] := by
  cases a <;> simp only [liveCount] at hl <;> simp only [absorbBlock]
  · rw [getElem_storeWords, dif_neg (by omega)]
  · rw [getElem_storeWords, dif_neg (by omega)]
  · rw [getElem_storeWords, dif_neg (by omega)]
  · omega

theorem firstWords_congr {n : Nat} (hn : n ≤ 50) (g h : Vector Word 50)
    (e : ∀ i (hi : i < 50), i < n → g[i] = h[i]) : firstWords n hn g = firstWords n hn h :=
  Vector.ext fun i hi => by simp [e i (by omega) hi]

/-- The live words after a block depend on the live words before it only (R27). -/
theorem absorbBlock_live (a : Alg) (n : Nat) (g h : Vector Word 50) (block : List Byte)
    (e : ∀ i (hi : i < 50), i < liveCount a → g[i] = h[i]) (i : Nat) (hi : i < 50) (hl : i < liveCount a) :
    (absorbBlock a n g block)[i] = (absorbBlock a n h block)[i] := by
  cases a <;> simp only [liveCount] at hl e <;> simp only [absorbBlock]
  · omega
  · rw [getElem_storeWords, getElem_storeWords, dif_pos hl, dif_pos hl, firstWords_congr _ g h e]
  · rw [getElem_storeWords, getElem_storeWords, dif_pos hl, dif_pos hl, firstWords_congr _ g h e]
  · rw [getElem_storeWords, getElem_storeWords, dif_pos hl, dif_pos hl, firstWords_congr _ g h e]
  · rw [words_ext g h fun i hi => e i hi hi]

/-! ### One byte -/

@[simp] theorem length_bufBlock (buf : Vector Byte 168) (n : Nat) (h : n ≤ 168) :
    (bufBlock buf n).length = n := by
  simp [bufBlock, h]

theorem byteAt_bufBlock (buf : Vector Byte 168) (n k : Nat) (hk : k < n) (h : k < 168) :
    byteAt (bufBlock buf n) k = buf[k] := by
  simp [byteAt, bufBlock, hk, h]

theorem bufBlock_congr (b b' : Vector Byte 168) (n : Nat) (hn : n ≤ 168)
    (h : ∀ k (hk : k < 168), k < n → b[k] = b'[k]) : bufBlock b n = bufBlock b' n :=
  byteList_ext _ _ (by simp [hn]) fun i hi => by
    rw [length_bufBlock _ _ hn] at hi
    rw [byteAt_bufBlock _ _ _ hi (by omega), byteAt_bufBlock _ _ _ hi (by omega), h i (by omega) hi]

/-- The buffer after a byte: the live bytes, then that byte. -/
theorem bufBlock_set (buf : Vector Byte 168) (r : Nat) (b : Byte) (h : r < 168) :
    bufBlock (buf.setIfInBounds r b) (r + 1) = bufBlock buf r ++ [b] :=
  byteList_ext _ _ (by simp [show r + 1 ≤ 168 by omega, show r ≤ 168 by omega]) fun i hi => by
    rw [length_bufBlock _ _ (by omega)] at hi
    rw [byteAt_bufBlock _ _ _ hi (by omega)]
    by_cases hir : i < r
    · rw [byteAt_append_left _ _ _ (by simp [show r ≤ 168 by omega]; exact hir),
        byteAt_bufBlock _ _ _ hir (by omega)]
      simp [show r ≠ i by omega]
    · rw [byteAt_append_right _ _ _ (by simp [show r ≤ 168 by omega]; omega)]
      have : i = r := by omega
      subst this
      simp [show i ≤ 168 by omega]

/-- `BUFLEN` counts without wrapping below `CHUNK`. -/
theorem buflen_succ (x : BitVec 8) (n : Nat) (h : x.toNat < n) (hn : n ≤ 168) :
    (x + 1).toNat = x.toNat + 1 := by
  rw [BitVec.toNat_add, show (1 : BitVec 8).toNat = 1 from rfl]; omega

@[simp] theorem pushByte_chunk (s : State) (b : Byte) : chunk (pushByte s b) = chunk s := by
  simp only [chunk, pushByte_alg, pushByte_kbits]

@[simp] theorem pushByte_buf (s : State) (b : Byte) :
    (pushByte s b).buf = s.buf.setIfInBounds s.buflen.toNat b := rfl

/-- A byte that does not fill the buffer (R146). -/
theorem pushByte_part (s : State) (b : Byte) (h : s.buflen.toNat + 1 < chunk s) (hn : chunk s ≤ 168) :
    (pushByte s b).h = s.h ∧ (pushByte s b).buflen.toNat = s.buflen.toNat + 1 ∧
      bufBlock (pushByte s b).buf (s.buflen.toNat + 1) = bufBlock s.buf s.buflen.toNat ++ [b] := by
  have hs := buflen_succ s.buflen (chunk s) (by omega) hn
  have hf : ¬ (s.buflen + 1).toNat = chunk s := by omega
  simp only [pushByte, hf, decide_false, Bool.false_eq_true, ↓reduceIte, true_and]
  exact ⟨hs, bufBlock_set _ _ _ (by omega)⟩

/-- A byte that fills the buffer: the block is absorbed (R146, R150). -/
theorem pushByte_full (s : State) (b : Byte) (h : s.buflen.toNat + 1 = chunk s) (hn : chunk s ≤ 168) :
    (pushByte s b).h = absorbBlock s.alg (chunk s) s.h (bufBlock s.buf s.buflen.toNat ++ [b]) ∧
      (pushByte s b).buflen = 0 := by
  have hs := buflen_succ s.buflen (chunk s) (by omega) hn
  have hf : (s.buflen + 1).toNat = chunk s := by omega
  simp only [pushByte, hf, decide_true, ↓reduceIte, and_true]
  rw [← bufBlock_set _ _ _ (by omega), h]

/-- `BUFLEN` stays below `CHUNK` (I-BUF, R21). -/
theorem pushByte_buflen_lt (s : State) (b : Byte) (h : s.buflen.toNat < chunk s) (hn : chunk s ≤ 168) :
    (pushByte s b).buflen.toNat < chunk s := by
  by_cases hf : s.buflen.toNat + 1 = chunk s
  · rw [(pushByte_full s b hf hn).2]; rw [show (0 : BitVec 8).toNat = 0 from rfl]; omega
  · rw [(pushByte_part s b (by omega) hn).2.1]; omega

/-! ### Many bytes -/

@[simp] theorem pushBytes_nil (s : State) : pushBytes s [] = s := rfl

@[simp] theorem pushBytes_cons (s : State) (b : Byte) (bs : List Byte) :
    pushBytes s (b :: bs) = pushBytes (pushByte s b) bs := rfl

theorem pushBytes_append (s : State) (xs ys : List Byte) :
    pushBytes s (xs ++ ys) = pushBytes (pushBytes s xs) ys := by
  simp [pushBytes]

/-- UPDATE's loop writes `H`, `BUF` and `BUFLEN` only. -/
theorem pushBytes_frame (s : State) (bs : List Byte) :
    pushBytes s bs =
      { s with h := (pushBytes s bs).h, buf := (pushBytes s bs).buf, buflen := (pushBytes s bs).buflen } := by
  induction bs generalizing s with
  | nil => rfl
  | cons b bs ih => rw [pushBytes_cons, ih]; simp only [pushByte]

theorem pushBytes_buflen_lt (s : State) (bs : List Byte) (h : s.buflen.toNat < chunk s) (hn : chunk s ≤ 168) :
    (pushBytes s bs).buflen.toNat < chunk s := by
  induction bs generalizing s with
  | nil => exact h
  | cons b bs ih =>
    have := ih (pushByte s b) (by simpa using pushByte_buflen_lt s b h hn) (by simpa using hn)
    simpa using this

/-! ### Padding, output and the end of DIGEST -/

/-- Padding writes `H` and `BUF` only. -/
theorem padMessage_frame (s : State) :
    padMessage s = { s with h := (padMessage s).h, buf := (padMessage s).buf } := by
  unfold padMessage padKeccak padMd absorb putLength zeroBlock markEnd markKeccak
  split
  · rfl
  · split <;> rfl

/-- Padding leaves the dead words of `H` alone. -/
theorem padMessage_dead (s : State) (i : Nat) (hi : i < 50) (hl : liveCount s.alg ≤ i) :
    (padMessage s).h[i] = s.h[i] := by
  have key : ∀ u : State, u.alg = s.alg → (absorb u).h[i] = u.h[i] := fun u hu =>
    absorbBlock_dead _ _ _ _ _ hi (hu ▸ hl)
  unfold padMessage padKeccak padMd
  split
  · exact key _ rfl
  · split
    · exact (key (putLength (zeroBlock (absorb (markEnd s)))) rfl).trans (key (markEnd s) rfl)
    · exact key _ rfl

@[simp] theorem length_squeeze (rate n k : Nat) (h : Vector Word 50) : (squeeze rate n k h).length = n := by
  induction n generalizing k h with
  | zero => rfl
  | succ n ih => simp only [squeeze]; split <;> simp [ih]

@[simp] theorem length_lengthField (a : Alg) (total : Dword) : (lengthField a total).length = 8 := by
  cases a <;> rfl

/-- A digest has `DSIZE` bytes (R36, R160). -/
theorem length_digestBytes (s : State) (h : s.alg ≠ .none) : (digestBytes s).length = dsize s := by
  unfold digestBytes dsize
  cases ha : s.alg
  · exact absurd ha h
  all_goals simp [extractMd, dsizeOf]

/-- `FINISH()` writes the instance only. -/
theorem finish_frame (s : State) :
    finish s =
      { s with
        h := (finish s).h, buflen := 0, total := (finish s).total, fin := (finish s).fin
        draws := (finish s).draws } := by
  unfold finish; split <;> simp only [finalizeInstance, instanceReset]

/-- The two ends of DIGEST (R171, R172). -/
theorem finish_cases (s : State) :
    (s.alg = .keccak ∧ s.plat.keccakReuse = .error ∧ finish s = finalizeInstance s) ∨
    (¬ (s.alg = .keccak ∧ s.plat.keccakReuse = .error) ∧ finish s = instanceReset s) := by
  by_cases h : s.alg = .keccak ∧ s.plat.keccakReuse = .error
  · exact .inl ⟨h.1, h.2, if_pos h⟩
  · exact .inr ⟨h, if_neg h⟩

/-! ### Fields after `pushBytes` -/

@[simp] theorem pushBytes_alg (s : State) (bs : List Byte) :
    (pushBytes s bs).alg = s.alg := by rw [pushBytes_frame]
@[simp] theorem pushBytes_kbits (s : State) (bs : List Byte) :
    (pushBytes s bs).kbits = s.kbits := by rw [pushBytes_frame]
@[simp] theorem pushBytes_kpad (s : State) (bs : List Byte) :
    (pushBytes s bs).kpad = s.kpad := by rw [pushBytes_frame]
@[simp] theorem pushBytes_outbits (s : State) (bs : List Byte) :
    (pushBytes s bs).outbits = s.outbits := by rw [pushBytes_frame]
@[simp] theorem pushBytes_total (s : State) (bs : List Byte) :
    (pushBytes s bs).total = s.total := by rw [pushBytes_frame]
@[simp] theorem pushBytes_fin (s : State) (bs : List Byte) :
    (pushBytes s bs).fin = s.fin := by rw [pushBytes_frame]
@[simp] theorem pushBytes_err (s : State) (bs : List Byte) :
    (pushBytes s bs).err = s.err := by rw [pushBytes_frame]
@[simp] theorem pushBytes_errcmd (s : State) (bs : List Byte) :
    (pushBytes s bs).errcmd = s.errcmd := by rw [pushBytes_frame]
@[simp] theorem pushBytes_cmd (s : State) (bs : List Byte) :
    (pushBytes s bs).cmd = s.cmd := by rw [pushBytes_frame]
@[simp] theorem pushBytes_argOutbits (s : State) (bs : List Byte) :
    (pushBytes s bs).argOutbits = s.argOutbits := by rw [pushBytes_frame]
@[simp] theorem pushBytes_srcAddr (s : State) (bs : List Byte) :
    (pushBytes s bs).srcAddr = s.srcAddr := by rw [pushBytes_frame]
@[simp] theorem pushBytes_srcAddrHi (s : State) (bs : List Byte) :
    (pushBytes s bs).srcAddrHi = s.srcAddrHi := by rw [pushBytes_frame]
@[simp] theorem pushBytes_srcOff (s : State) (bs : List Byte) :
    (pushBytes s bs).srcOff = s.srcOff := by rw [pushBytes_frame]
@[simp] theorem pushBytes_srcCnt (s : State) (bs : List Byte) :
    (pushBytes s bs).srcCnt = s.srcCnt := by rw [pushBytes_frame]
@[simp] theorem pushBytes_dstAddr (s : State) (bs : List Byte) :
    (pushBytes s bs).dstAddr = s.dstAddr := by rw [pushBytes_frame]
@[simp] theorem pushBytes_dstAddrHi (s : State) (bs : List Byte) :
    (pushBytes s bs).dstAddrHi = s.dstAddrHi := by rw [pushBytes_frame]
@[simp] theorem pushBytes_dstLen (s : State) (bs : List Byte) :
    (pushBytes s bs).dstLen = s.dstLen := by rw [pushBytes_frame]
@[simp] theorem pushBytes_mem (s : State) (bs : List Byte) :
    (pushBytes s bs).mem = s.mem := by rw [pushBytes_frame]
@[simp] theorem pushBytes_plat (s : State) (bs : List Byte) :
    (pushBytes s bs).plat = s.plat := by rw [pushBytes_frame]
@[simp] theorem pushBytes_pending (s : State) (bs : List Byte) :
    (pushBytes s bs).pending = s.pending := by rw [pushBytes_frame]
@[simp] theorem pushBytes_rdata (s : State) (bs : List Byte) :
    (pushBytes s bs).rdata = s.rdata := by rw [pushBytes_frame]
@[simp] theorem pushBytes_trace (s : State) (bs : List Byte) :
    (pushBytes s bs).trace = s.trace := by rw [pushBytes_frame]
@[simp] theorem pushBytes_draws (s : State) (bs : List Byte) :
    (pushBytes s bs).draws = s.draws := by rw [pushBytes_frame]

@[simp] theorem pushBytes_chunk (s : State) (bs : List Byte) : chunk (pushBytes s bs) = chunk s := by
  simp only [chunk, pushBytes_alg, pushBytes_kbits]

/-! ### Fields after `padMessage` -/

@[simp] theorem padMessage_alg (s : State) : (padMessage s).alg = s.alg := by rw [padMessage_frame]
@[simp] theorem padMessage_kbits (s : State) : (padMessage s).kbits = s.kbits := by rw [padMessage_frame]
@[simp] theorem padMessage_kpad (s : State) : (padMessage s).kpad = s.kpad := by rw [padMessage_frame]
@[simp] theorem padMessage_outbits (s : State) :
    (padMessage s).outbits = s.outbits := by rw [padMessage_frame]
@[simp] theorem padMessage_buflen (s : State) : (padMessage s).buflen = s.buflen := by rw [padMessage_frame]
@[simp] theorem padMessage_total (s : State) : (padMessage s).total = s.total := by rw [padMessage_frame]
@[simp] theorem padMessage_fin (s : State) : (padMessage s).fin = s.fin := by rw [padMessage_frame]
@[simp] theorem padMessage_err (s : State) : (padMessage s).err = s.err := by rw [padMessage_frame]
@[simp] theorem padMessage_errcmd (s : State) : (padMessage s).errcmd = s.errcmd := by rw [padMessage_frame]
@[simp] theorem padMessage_cmd (s : State) : (padMessage s).cmd = s.cmd := by rw [padMessage_frame]
@[simp] theorem padMessage_argOutbits (s : State) :
    (padMessage s).argOutbits = s.argOutbits := by rw [padMessage_frame]
@[simp] theorem padMessage_srcAddr (s : State) :
    (padMessage s).srcAddr = s.srcAddr := by rw [padMessage_frame]
@[simp] theorem padMessage_srcAddrHi (s : State) :
    (padMessage s).srcAddrHi = s.srcAddrHi := by rw [padMessage_frame]
@[simp] theorem padMessage_srcOff (s : State) : (padMessage s).srcOff = s.srcOff := by rw [padMessage_frame]
@[simp] theorem padMessage_srcCnt (s : State) : (padMessage s).srcCnt = s.srcCnt := by rw [padMessage_frame]
@[simp] theorem padMessage_dstAddr (s : State) :
    (padMessage s).dstAddr = s.dstAddr := by rw [padMessage_frame]
@[simp] theorem padMessage_dstAddrHi (s : State) :
    (padMessage s).dstAddrHi = s.dstAddrHi := by rw [padMessage_frame]
@[simp] theorem padMessage_dstLen (s : State) : (padMessage s).dstLen = s.dstLen := by rw [padMessage_frame]
@[simp] theorem padMessage_mem (s : State) : (padMessage s).mem = s.mem := by rw [padMessage_frame]
@[simp] theorem padMessage_plat (s : State) : (padMessage s).plat = s.plat := by rw [padMessage_frame]
@[simp] theorem padMessage_pending (s : State) :
    (padMessage s).pending = s.pending := by rw [padMessage_frame]
@[simp] theorem padMessage_rdata (s : State) : (padMessage s).rdata = s.rdata := by rw [padMessage_frame]
@[simp] theorem padMessage_trace (s : State) : (padMessage s).trace = s.trace := by rw [padMessage_frame]
@[simp] theorem padMessage_draws (s : State) : (padMessage s).draws = s.draws := by rw [padMessage_frame]

@[simp] theorem padMessage_dsize (s : State) : dsize (padMessage s) = dsize s := by
  simp only [dsize, padMessage_alg, padMessage_outbits]

/-! ### Fields after `finish` -/

@[simp] theorem finish_alg (s : State) : (finish s).alg = s.alg := by rw [finish_frame]
@[simp] theorem finish_kbits (s : State) : (finish s).kbits = s.kbits := by rw [finish_frame]
@[simp] theorem finish_kpad (s : State) : (finish s).kpad = s.kpad := by rw [finish_frame]
@[simp] theorem finish_outbits (s : State) : (finish s).outbits = s.outbits := by rw [finish_frame]
@[simp] theorem finish_buf (s : State) : (finish s).buf = s.buf := by rw [finish_frame]
@[simp] theorem finish_err (s : State) : (finish s).err = s.err := by rw [finish_frame]
@[simp] theorem finish_errcmd (s : State) : (finish s).errcmd = s.errcmd := by rw [finish_frame]
@[simp] theorem finish_cmd (s : State) : (finish s).cmd = s.cmd := by rw [finish_frame]
@[simp] theorem finish_argOutbits (s : State) : (finish s).argOutbits = s.argOutbits := by rw [finish_frame]
@[simp] theorem finish_srcAddr (s : State) : (finish s).srcAddr = s.srcAddr := by rw [finish_frame]
@[simp] theorem finish_srcAddrHi (s : State) : (finish s).srcAddrHi = s.srcAddrHi := by rw [finish_frame]
@[simp] theorem finish_srcOff (s : State) : (finish s).srcOff = s.srcOff := by rw [finish_frame]
@[simp] theorem finish_srcCnt (s : State) : (finish s).srcCnt = s.srcCnt := by rw [finish_frame]
@[simp] theorem finish_dstAddr (s : State) : (finish s).dstAddr = s.dstAddr := by rw [finish_frame]
@[simp] theorem finish_dstAddrHi (s : State) : (finish s).dstAddrHi = s.dstAddrHi := by rw [finish_frame]
@[simp] theorem finish_dstLen (s : State) : (finish s).dstLen = s.dstLen := by rw [finish_frame]
@[simp] theorem finish_mem (s : State) : (finish s).mem = s.mem := by rw [finish_frame]
@[simp] theorem finish_plat (s : State) : (finish s).plat = s.plat := by rw [finish_frame]
@[simp] theorem finish_pending (s : State) : (finish s).pending = s.pending := by rw [finish_frame]
@[simp] theorem finish_rdata (s : State) : (finish s).rdata = s.rdata := by rw [finish_frame]
@[simp] theorem finish_trace (s : State) : (finish s).trace = s.trace := by rw [finish_frame]

@[simp] theorem finish_buflen (s : State) : (finish s).buflen = 0 := by rw [finish_frame]

end Sys2Proof.Machine
end

