-- ==== Sys2Proof/Laws/Exec.lean ====
section
/-! SUPPORT. What a command can do, said once: the inversion lemma of `exec`, and the frames of the effects. -/

namespace Sys2Proof.Machine

/-- The shape of XF.MD5, XF.SHA1, XF.SHA256: a check raised, the gate ignored it, or the transform ran. -/
theorem execBlockTransform_next {a : Alg} {i : Instr} {s t : State}
    (h : execBlockTransform a i s = .next t) :
    (∃ e, e ≠ .none ∧ e ≠ .finalized ∧ t = raise e (encode i) s) ∨ (s.err ≠ .none ∧ t = s) ∨
    (s.err = .none ∧ s.alg ≠ .none ∧ s.alg = a ∧ t = transformSource s) := by
  unfold execBlockTransform checkSource at h
  obtain ⟨h1, h2, h⟩ | ⟨h1, h2⟩ | ⟨-, -, h⟩ := commonGates_next h
  · obtain ⟨h3, h⟩ | ⟨-, h⟩ := check_next h
    · obtain ⟨-, -, -, h⟩ | ⟨-, h⟩ | ⟨-, -, h⟩ := checkMemory_next h
      · exact .inr (.inr ⟨h1, h2, of_decide_eq_true h3, by simpa [eq_comm] using h⟩)
      · exact .inl ⟨_, by simp, by simp, h⟩
      · exact .inl ⟨_, by simp, by simp, h⟩
    · exact .inl ⟨_, by simp, by simp, h⟩
  · exact .inr (.inl ⟨h1, h2⟩)
  · exact .inl ⟨_, by simp, by simp, h⟩

/-- What a command did that answered a next state: INIT.* created an instance, a check raised, the gate
ignored the command, or its own effect ran. -/
theorem exec_next {i : Instr} {s t : State} (h : exec i s = .next t) :
    (∃ a kb kp o, isInit i = true ∧ a ≠ .none ∧ (a ≠ .keccak → kb = 0 ∧ kp = .keccak ∧ o = 0) ∧
      (a = .keccak → ∃ k, kb = BitVec.ofNat 10 k ∧ i = .initKeccak kp k ∧
        paramsLegal kp k s.argOutbits = true ∧ o = keccakOutbits kp k s.argOutbits) ∧
      t = createInstance a kb kp o s) ∨
    (∃ e, e ≠ .none ∧ (e = .finalized → s.fin = true) ∧ t = raise e (encode i) s) ∨
    (isInit i = false ∧ s.err ≠ .none ∧ t = s) ∨
    (s.err = .none ∧ s.alg ≠ .none ∧
      ((i = .reset ∧ t = instanceReset s) ∨
       (i = .update ∧ s.fin = false ∧ rangeOk s (srcBase s) s.srcCnt.toNat = true ∧ t = updateBody s) ∨
       (i = .digest ∧ s.fin = false ∧ s.dstLen.toNat = dsize s ∧
         rangeOk s (dstBase s) (dsize s) = true ∧ t = digestBody s) ∨
       (transformAlg i = some s.alg ∧ s.alg ≠ .keccak ∧ t = transformSource s) ∨
       (i = .xfKeccakf ∧ s.alg = .keccak ∧ t = { s with h := keccakF s.h }))) := by
  cases i with
  | initMd5 =>
    simp only [exec, execInitMd5, Host.Outcome.next.injEq] at h
    exact .inl ⟨_, _, _, _, rfl, by simp, by simp, by simp, h.symm⟩
  | initSha1 =>
    simp only [exec, execInitSha1, Host.Outcome.next.injEq] at h
    exact .inl ⟨_, _, _, _, rfl, by simp, by simp, by simp, h.symm⟩
  | initSha256 =>
    simp only [exec, execInitSha256, Host.Outcome.next.injEq] at h
    exact .inl ⟨_, _, _, _, rfl, by simp, by simp, by simp, h.symm⟩
  | initKeccak kp k =>
    obtain ⟨h1, h⟩ | ⟨-, h⟩ := check_next (show check _ _ _ _ _ = _ from h)
    · simp only [Host.Outcome.next.injEq] at h
      exact .inl ⟨_, _, _, _, rfl, by simp, by simp, fun _ => ⟨k, rfl, rfl, h1, rfl⟩, h.symm⟩
    · exact .inr (.inl ⟨_, by simp, by simp, h⟩)
  | update =>
    simp only [exec, execUpdate, checkSource] at h
    obtain ⟨h1, h2, h⟩ | ⟨h1, h2⟩ | ⟨-, -, h⟩ := commonGates_next h
    · obtain ⟨h3, h⟩ | ⟨h3, h⟩ := check_next h
      · obtain ⟨h4, -, -, h⟩ | ⟨-, h⟩ | ⟨-, -, h⟩ := checkMemory_next h
        · simp only [Host.Outcome.next.injEq] at h
          exact .inr (.inr (.inr ⟨h1, h2, .inr (.inl ⟨rfl, by simpa using h3, h4, h.symm⟩)⟩))
        · exact .inr (.inl ⟨_, by simp, by simp, h⟩)
        · exact .inr (.inl ⟨_, by simp, by simp, h⟩)
      · exact .inr (.inl ⟨_, by simp, by simpa using h3, h⟩)
    · exact .inr (.inr (.inl ⟨rfl, h1, h2⟩))
    · exact .inr (.inl ⟨_, by simp, by simp, h⟩)
  | digest =>
    simp only [exec, execDigest, checkDestination] at h
    obtain ⟨h1, h2, h⟩ | ⟨h1, h2⟩ | ⟨-, -, h⟩ := commonGates_next h
    · obtain ⟨h3, h⟩ | ⟨h3, h⟩ := check_next h
      · obtain ⟨h4, h⟩ | ⟨-, h⟩ := check_next h
        · obtain ⟨h5, -, -, h⟩ | ⟨-, h⟩ | ⟨-, -, h⟩ := checkMemory_next h
          · simp only [Host.Outcome.next.injEq] at h
            exact .inr (.inr (.inr ⟨h1, h2, .inr (.inr (.inl
              ⟨rfl, by simpa using h3, of_decide_eq_true h4, h5, h.symm⟩))⟩))
          · exact .inr (.inl ⟨_, by simp, by simp, h⟩)
          · exact .inr (.inl ⟨_, by simp, by simp, h⟩)
        · exact .inr (.inl ⟨_, by simp, by simp, h⟩)
      · exact .inr (.inl ⟨_, by simp, by simpa using h3, h⟩)
    · exact .inr (.inr (.inl ⟨rfl, h1, h2⟩))
    · exact .inr (.inl ⟨_, by simp, by simp, h⟩)
  | reset =>
    obtain ⟨h1, h2, h⟩ | ⟨h1, h2⟩ | ⟨-, -, h⟩ := commonGates_next (show commonGates _ _ _ = _ from h)
    · simp only [Host.Outcome.next.injEq] at h
      exact .inr (.inr (.inr ⟨h1, h2, .inl ⟨rfl, h.symm⟩⟩))
    · exact .inr (.inr (.inl ⟨rfl, h1, h2⟩))
    · exact .inr (.inl ⟨_, by simp, by simp, h⟩)
  | xfMd5 =>
    obtain ⟨e, h1, h2, h⟩ | ⟨h1, h⟩ | ⟨h1, h2, h3, h⟩ :=
      execBlockTransform_next (show execBlockTransform .md5 .xfMd5 s = _ from h)
    · exact .inr (.inl ⟨e, h1, fun he => absurd he h2, h⟩)
    · exact .inr (.inr (.inl ⟨rfl, h1, h⟩))
    · exact .inr (.inr (.inr ⟨h1, h2, .inr (.inr (.inr (.inl
        ⟨by simp [transformAlg, h3], by simp [h3], h⟩)))⟩))
  | xfSha1 =>
    obtain ⟨e, h1, h2, h⟩ | ⟨h1, h⟩ | ⟨h1, h2, h3, h⟩ :=
      execBlockTransform_next (show execBlockTransform .sha1 .xfSha1 s = _ from h)
    · exact .inr (.inl ⟨e, h1, fun he => absurd he h2, h⟩)
    · exact .inr (.inr (.inl ⟨rfl, h1, h⟩))
    · exact .inr (.inr (.inr ⟨h1, h2, .inr (.inr (.inr (.inl
        ⟨by simp [transformAlg, h3], by simp [h3], h⟩)))⟩))
  | xfSha256 =>
    obtain ⟨e, h1, h2, h⟩ | ⟨h1, h⟩ | ⟨h1, h2, h3, h⟩ :=
      execBlockTransform_next (show execBlockTransform .sha256 .xfSha256 s = _ from h)
    · exact .inr (.inl ⟨e, h1, fun he => absurd he h2, h⟩)
    · exact .inr (.inr (.inl ⟨rfl, h1, h⟩))
    · exact .inr (.inr (.inr ⟨h1, h2, .inr (.inr (.inr (.inl
        ⟨by simp [transformAlg, h3], by simp [h3], h⟩)))⟩))
  | xfKeccakf =>
    obtain ⟨h1, h2, h⟩ | ⟨h1, h2⟩ | ⟨-, -, h⟩ := commonGates_next (show commonGates _ _ _ = _ from h)
    · obtain ⟨h3, h⟩ | ⟨-, h⟩ := check_next h
      · simp only [Host.Outcome.next.injEq] at h
        exact .inr (.inr (.inr ⟨h1, h2, .inr (.inr (.inr (.inr ⟨rfl, of_decide_eq_true h3, h.symm⟩)))⟩))
      · exact .inr (.inl ⟨_, by simp, by simp, h⟩)
    · exact .inr (.inr (.inl ⟨rfl, h1, h2⟩))
    · exact .inr (.inl ⟨_, by simp, by simp, h⟩)

/-! ### Frames of the effects -/

/-- UPDATE writes `H`, `BUF`, `BUFLEN`, `TOTAL` and the trace. -/
theorem updateBody_frame (s : State) :
    updateBody s =
      { s with
        h := (updateBody s).h, buf := (updateBody s).buf, buflen := (updateBody s).buflen
        total := s.total + s.srcCnt.setWidth 64, trace := (updateBody s).trace } := by
  simp only [updateBody, logReads]
  rw [pushBytes_frame]

/-- DIGEST writes the instance, the memory of its range and the trace. -/
theorem digestBody_frame (s : State) :
    digestBody s =
      { s with
        h := (digestBody s).h, buf := (digestBody s).buf, buflen := 0, total := (digestBody s).total
        fin := (digestBody s).fin
        mem := s.mem.writeBytes (dstBase s) (digestBytes (padMessage s))
        trace := s.trace ++ writeEvents (dstBase s) (digestBytes (padMessage s))
        draws := (digestBody s).draws } := by
  simp only [digestBody]
  rw [finish_frame, storeOutput, padMessage_frame]

/-- XF.MD5, XF.SHA1 and XF.SHA256 write `H` and the trace. -/
theorem transformSource_frame (s : State) :
    transformSource s =
      { s with
        h := absorbBlock s.alg (chunk s) s.h (sourceBlock s)
        trace := s.trace ++ readEvents (srcBase s) (sourceBlock s) } := by
  simp only [transformSource, logReads]

end Sys2Proof.Machine
end

