-- ==== Sys2Proof/Laws/PerInstr.lean ====
section
/-! SUPPORT. Statements made for every constructor of `Instr`, one lemma each. Family `Fields`: the five
fields of a command's word (30_encoding.md R91) are those of its row (R92 to R94). -/

namespace Sys2Proof.Laws.Fields

/-- `op`, `alg`, `kpad`, `zero`, `kbits` of each row of R94, in this order. -/
def expected : Instr → Nat × Nat × Nat × Nat × Nat
  | .initMd5 => (0x01, 1, 0, 0, 0)
  | .initSha1 => (0x01, 2, 0, 0, 0)
  | .initSha256 => (0x01, 3, 0, 0, 0)
  | .initKeccak kpad kbits => (0x01, 4, kpadCode kpad, 0, kbits)
  | .update => (0x02, 0, 0, 0, 0)
  | .digest => (0x03, 0, 0, 0, 0)
  | .reset => (0x04, 0, 0, 0, 0)
  | .xfMd5 => (0x10, 0, 0, 0, 0)
  | .xfSha1 => (0x11, 0, 0, 0, 0)
  | .xfSha256 => (0x12, 0, 0, 0, 0)
  | .xfKeccakf => (0x13, 0, 0, 0, 0)

/-- The fields that a word has. -/
def actual (c : Word) : Nat × Nat × Nat × Nat × Nat :=
  ((fieldOp c).toNat, (fieldAlg c).toNat, (fieldKpad c).toNat, (fieldZero c).toNat, (fieldKbits c).toNat)

/-- A well-formed command's word has the fields of its row. -/
def Statement (i : Instr) : Prop := i.wf = true → actual (encode i) = expected i

theorem initMd5 : Statement .initMd5 := fun _ => by decide
theorem initSha1 : Statement .initSha1 := fun _ => by decide
theorem initSha256 : Statement .initSha256 := fun _ => by decide

theorem initKeccak (kpad : KPad) (kbits : Nat) : Statement (.initKeccak kpad kbits) := by
  intro h
  simp only [Instr.wf, decide_eq_true_eq] at h
  have hk : kpadCode kpad < 4 := by cases kpad <;> simp [kpadCode]
  have hw : (encode (.initKeccak kpad kbits)).toNat = 0x01400000 + kpadCode kpad * 2 ^ 18 + kbits := by
    simp only [encode, BitVec.toNat_ofNat]; omega
  simp only [actual, expected, fieldOp, fieldAlg, fieldKpad, fieldZero, fieldKbits, BitVec.extractLsb'_toNat,
    hw, Nat.shiftRight_eq_div_pow, Prod.mk.injEq]
  omega

theorem update : Statement .update := fun _ => by decide
theorem digest : Statement .digest := fun _ => by decide
theorem reset : Statement .reset := fun _ => by decide
theorem xfMd5 : Statement .xfMd5 := fun _ => by decide
theorem xfSha1 : Statement .xfSha1 := fun _ => by decide
theorem xfSha256 : Statement .xfSha256 := fun _ => by decide
theorem xfKeccakf : Statement .xfKeccakf := fun _ => by decide

end Sys2Proof.Laws.Fields
end

