-- ==== Sys2Proof/Laws/Step.lean ====
section
/-! SUPPORT. What a step can do, said once: the inversion lemmas of the port and of `step`. -/

namespace Sys2Proof.Machine

/-- A word written to `CMD`: an illegal one was rejected or ignored, or the command ran. -/
theorem writeCmd_next {w : Word} {s t : State} (h : writeCmd w s = .next t) :
    (decode w = none ∧ t = raise .illegalCmd w { s with cmd := w }) ∨
    (∃ i, decode w = some i ∧ exec i { s with cmd := w } = .next t) := by
  unfold writeCmd at h
  split at h
  · exact .inr ⟨_, ‹_›, h⟩
  · exact .inl ⟨‹_›, by simpa [eq_comm] using h⟩

/-- `CMD` is at offset 0 and nowhere else (R96). -/
theorem regAt_eq_cmd (offset : Nat) (hm : offset % 4 = 0) (h : regAt offset = .cmd) : offset = 0 := by
  unfold regAt at h
  split at h
  · by_contra hne
    have : offset / 4 ≠ 0 := by omega
    unfold controlReg at h
    split at h <;> simp_all
  · split at h
    · simp at h
    · split at h
      · simp at h
      · split at h <;> simp at h

theorem accessFormOk_iff (offset width : Nat) :
    accessFormOk offset width = true ↔ width = 4 ∧ offset % 4 = 0 := by
  simp [accessFormOk]

/-- An access of the legal form in the register file is taken. -/
theorem checkAccess_legal (offset : Nat) (hm : offset % 4 = 0) (hl : offset < 0x400) (go : Outcome) :
    checkAccess offset 4 go = go := by
  simp [checkAccess, accessFormOk, hm, hl]

/-- An access that is not refused has the one legal form (R98) and lies in the register file (R96). -/
theorem checkAccess_next {offset width : Nat} {go : Outcome} {t : State}
    (h : checkAccess offset width go = .next t) :
    width = 4 ∧ offset % 4 = 0 ∧ offset < 0x400 ∧ go = .next t := by
  unfold checkAccess at h
  split at h
  · split at h
    · have := (accessFormOk_iff offset width).1 ‹_›
      exact ⟨this.1, this.2, ‹_›, h⟩
    · cases h
  · cases h

/-- A register write that is not to `CMD` writes operand registers only (R97). -/
theorem writeReg_next {r : Reg} {v : Word} {s t : State} (h : writeReg r v s = .next t) :
    (r = .cmd ∧ writeCmd v s = .next t) ∨
    (r ≠ .cmd ∧ t = { s with
      argOutbits := t.argOutbits, srcAddr := t.srcAddr, srcAddrHi := t.srcAddrHi, srcOff := t.srcOff
      srcCnt := t.srcCnt, dstAddr := t.dstAddr, dstAddrHi := t.dstAddrHi, dstLen := t.dstLen }) := by
  unfold writeReg at h
  split at h
  · exact .inl ⟨rfl, h⟩
  all_goals
    simp only [Host.Outcome.next.injEq] at h
    subst h
    exact .inr ⟨by simp, rfl⟩

/-- The host writes back what it last read: the same as a write of that value (R112). -/
theorem hostStep_writeBack (offset width : Nat) (s : State) :
    hostStep (.writeBack offset width) s = hostStep (.write offset width s.rdata) s := rfl

/-- What a step did: nothing was pending; a word was written to `CMD`; the core was reset, between
commands or in one; or the access changed operand registers, `rdata`, the draws or memory alone. -/
theorem step_next {s t : State} (h : step s = .next t) :
    (s.pending = [] ∧ t = s) ∨ ∃ op rest, s.pending = op :: rest ∧
      ((∃ c, (op = .write 0x000 4 c ∨ (op = .writeBack 0x000 4 ∧ c = s.rdata)) ∧
          writeCmd c { s with pending := rest } = .next t) ∨
       (op = .reset ∧ t = hardReset { s with pending := rest }) ∨
       (∃ c, op = .cutCommand c ∧ cutCommand c { s with pending := rest } = .next t) ∨
       t = { s with
         pending := rest
         argOutbits := t.argOutbits, srcAddr := t.srcAddr, srcAddrHi := t.srcAddrHi, srcOff := t.srcOff
         srcCnt := t.srcCnt, dstAddr := t.dstAddr, dstAddrHi := t.dstAddrHi, dstLen := t.dstLen
         rdata := t.rdata, draws := t.draws, mem := t.mem }) := by
  unfold step at h
  split at h
  · simp only [Host.Outcome.next.injEq] at h
    exact .inl ⟨‹_›, h.symm⟩
  · rename_i op rest hp
    refine .inr ⟨op, rest, hp, ?_⟩
    cases op with
    | write offset width v =>
      obtain ⟨rfl, hm, -, h⟩ := checkAccess_next (show checkAccess _ _ _ = _ from h)
      obtain ⟨hr, h⟩ | ⟨-, h⟩ := writeReg_next h
      · exact .inl ⟨v, .inl (by rw [regAt_eq_cmd offset hm hr]), h⟩
      · exact .inr (.inr (.inr (by rw [h])))
    | writeBack offset width =>
      obtain ⟨rfl, hm, -, h⟩ := checkAccess_next (show checkAccess _ _ _ = _ from h)
      obtain ⟨hr, h⟩ | ⟨-, h⟩ := writeReg_next h
      · exact .inl ⟨s.rdata, .inr ⟨by rw [regAt_eq_cmd offset hm hr], rfl⟩, h⟩
      · exact .inr (.inr (.inr (by rw [h])))
    | read offset width =>
      obtain ⟨-, -, -, h⟩ := checkAccess_next (show checkAccess _ _ _ = _ from h)
      simp only [Host.Outcome.next.injEq] at h
      exact .inr (.inr (.inr (by rw [← h]; rfl)))
    | store a v =>
      simp only [hostStep] at h
      split at h
      · split at h
        · simp only [Host.Outcome.next.injEq] at h
          exact .inr (.inr (.inr (by rw [← h])))
        · cases h
      · cases h
    | reset =>
      simp only [hostStep, Host.Outcome.next.injEq] at h
      exact .inr (.inl ⟨rfl, h.symm⟩)
    | cutCommand c => exact .inr (.inr (.inl ⟨c, rfl, h⟩))

/-- A command that was cut leaves a core that was reset (R350). -/
theorem cutCommand_next {c : Word} {s t : State} (h : cutCommand c s = .next t) :
    t = hardReset (cutWrites s.draws (dstBase s)
      (if digestRuns c s then digestBytes (padMessage s) else [])
      { s with draws :=
          s.draws + (if digestRuns c s then digestBytes (padMessage s) else []).length }) := by
  unfold cutCommand at h
  split at h
  · simp only [Host.Outcome.next.injEq] at h
    exact h.symm
  · cases h
  · cases h

/-- Bytes that a cut DIGEST wrote: memory, trace and nothing else. -/
theorem cutWrites_frame (d a : Nat) (out : List Byte) (s : State) :
    cutWrites d a out s =
      { s with mem := (cutWrites d a out s).mem, trace := (cutWrites d a out s).trace } := by
  induction out generalizing d a s with
  | nil => rfl
  | cons v vs ih =>
    simp only [cutWrites]
    rw [ih]
    split <;> simp [storeOutput]

/-- Each byte of a cut DIGEST's range is its old value or its digest byte (R350). -/
theorem cutWrites_read (d a b : Nat) (out : List Byte) (s : State) (h : s.mem.wf = true) :
    (cutWrites d a out s).mem.read b = s.mem.read b ∨
    (a ≤ b ∧ b < a + out.length ∧ (cutWrites d a out s).mem.read b = byteAt out (b - a)) := by
  induction out generalizing d a s with
  | nil => exact .inl rfl
  | cons v vs ih =>
    have hw : (storeOutput a [v] s).mem = s.mem.write a v := rfl
    simp only [cutWrites, List.length_cons]
    obtain ih | ⟨h1, h2, ih⟩ := ih (d + 1) (a + 1) (if Config.freeBit d then storeOutput a [v] s else s)
        (by split; exacts [hw ▸ Memory.write_wf _ _ _ h, h])
    · rw [ih]
      split
      · rw [hw, Memory.read_write _ _ _ _ h]
        split
        · subst_vars
          exact .inr ⟨by omega, by omega, by simp⟩
        · exact .inl rfl
      · exact .inl rfl
    · refine .inr ⟨by omega, by omega, ?_⟩
      rw [ih, show b - a = (b - (a + 1)) + 1 by omega, byteAt_cons_succ]

end Sys2Proof.Machine
end

