-- ==== Sys2Proof/Tests/Slice0.lean ====
section
/-! SUPPORT. Tests with expected results from the spec (95_test_vectors.md and the examples of the rules), and
for every statement with hypotheses a named witness: a state and operands that meet them. -/

namespace Sys2Proof.Tests

open Sys2Proof.Machine Sys2Proof.Claims

/-! ### Small states -/

/-- Hardware reset with the free values of `H` and `BUF` taken as 0, so that a test can be evaluated. -/
def idle : State :=
  { State.reset with h := Vector.replicate 50 0, buf := Vector.replicate 168 0, draws := 0 }

/-- A fresh instance of an algorithm of the MD family. -/
def fresh (a : Alg) : State := { idle with alg := a, h := withInitial a idle.h }

/-- A fresh Keccak instance. -/
def sponge (kpad : KPad) (kbits : Nat) (outbits : Word) : State :=
  { idle with alg := .keccak, kpad := kpad, kbits := BitVec.ofNat 10 kbits, outbits := outbits }

/-- The same platform with `KECCAK_REUSE = error`. -/
def errorPolicy (s : State) : State := { s with plat := { s.plat with keccakReuse := .error } }

/-- The platform of default parameters with a device at 16 to 31. -/
def withDevice (s : State) : State := { s with plat := { s.plat with devices := [⟨16, 16⟩] } }

/-- Memory that holds `bs` from address 0. -/
def holding (bs : List Byte) (s : State) : State := { s with mem := Memory.writeBytes [] 0 bs }

/-- The 64 bytes `00 01 ... 3F`. -/
def counting : List Byte := (List.range 64).map (BitVec.ofNat 8)

/-- One step in which the host writes `c` to `CMD`. -/
def writes (c : Word) (s : State) : Outcome := step { s with pending := [.write 0x000 4 c] }

/-- What a test looks at in the next state; nothing when the step stops. -/
def seen {α : Type} (f : State → α) : Outcome → Option α
  | .next t => some (f t)
  | .fault _ => none
  | .refused _ => none

/-- `STATUS` and `ERRCMD`. -/
def errors (t : State) : Word × Word := (statusWord t, t.errcmd)

/-- The first `n` words of `H`. -/
def words (n : Nat) (t : State) : List Word := t.h.toList.take n

/-! ### Well-formedness: each check refuses an ill-formed term -/

theorem test_wf_refuses_wide_kbits : (Instr.initKeccak .sha3 1024).wf = false := by decide
theorem test_wf_accepts_every_field_value : (Instr.initKeccak .cshake 1023).wf = true := by decide

/-! ### Decoding: words written out from the fields of R91 -/

theorem test_decode_initMd5 : decode 0b00000001_0001_00_00000000_0000000000#32 = some .initMd5 := by decide
theorem test_decode_initSha1 : decode 0b00000001_0010_00_00000000_0000000000#32 = some .initSha1 := by decide
theorem test_decode_initSha256 : decode 0b00000001_0011_00_00000000_0000000000#32 = some .initSha256 := by
  decide
theorem test_decode_initKeccak_sha3 :
    decode 0b00000001_0100_01_00000000_0100000000#32 = some (.initKeccak .sha3 256) := by decide
theorem test_decode_initKeccak_keccak :
    decode 0b00000001_0100_00_00000000_1000000000#32 = some (.initKeccak .keccak 512) := by decide
theorem test_decode_initKeccak_shake :
    decode 0b00000001_0100_10_00000000_0010000000#32 = some (.initKeccak .shake 128) := by decide
theorem test_decode_initKeccak_cshake :
    decode 0b00000001_0100_11_00000000_1111111111#32 = some (.initKeccak .cshake 1023) := by decide
theorem test_decode_update : decode 0b00000010_0000_00_00000000_0000000000#32 = some .update := by decide
theorem test_decode_digest : decode 0b00000011_0000_00_00000000_0000000000#32 = some .digest := by decide
theorem test_decode_reset : decode 0b00000100_0000_00_00000000_0000000000#32 = some .reset := by decide
theorem test_decode_xfMd5 : decode 0b00010000_0000_00_00000000_0000000000#32 = some .xfMd5 := by decide
theorem test_decode_xfSha1 : decode 0b00010001_0000_00_00000000_0000000000#32 = some .xfSha1 := by decide
theorem test_decode_xfSha256 : decode 0b00010010_0000_00_00000000_0000000000#32 = some .xfSha256 := by decide
theorem test_decode_xfKeccakf : decode 0b00010011_0000_00_00000000_0000000000#32 = some .xfKeccakf := by
  decide

/-- The illegal words of 95_test_vectors.md 2.2. -/
theorem test_decode_illegal :
    [0x01440500#32, 0x01140000#32, 0x01000000#32, 0x01500000#32, 0x01F00000#32, 0x02000001#32, 0x03100000#32,
     0x14000000#32, 0x05000000#32, 0x00000000#32, 0xFFFFFFFF#32].map decode =
    List.replicate 11 none := by decide

theorem test_decodeTableWord : decodeTableWord 32 0x01440100 = some (.initKeccak .sha3 256) ∧
    decodeTableWord 32 0x01000000 = none := by decide

/-! ### Primitives: 95_test_vectors.md 2.1 -/

theorem test_rotates : rotl32 0x80000001#32 1 = 0x00000003#32 ∧ rotl32 0x12345678#32 31 = 0x091A2B3C#32 ∧
    rotr32 0x12345678#32 4 = 0x81234567#32 ∧ rotl64 0x0123456789ABCDEF#64 44 = 0xBCDEF0123456789A#64 ∧
    shr32 0x12345678#32 10 = 0x00048D15#32 := by decide

theorem test_loads_and_stores :
    ld32le [0x61, 0x62, 0x63, 0x80] 0 = 0x80636261#32 ∧ ld32be [0x61, 0x62, 0x63, 0x80] 0 = 0x61626380#32 ∧
    st32le 0x98500190#32 = [0x90, 0x01, 0x50, 0x98] ∧ st32be 0xA9993E36#32 = [0xA9, 0x99, 0x3E, 0x36] ∧
    st64be 24#64 = [0, 0, 0, 0, 0, 0, 0, 0x18] := by decide

/-- `TOTAL = 2^61 + 1` has the bit length 8 (R124). -/
theorem test_length_wraps : lengthField .md5 0x2000000000000001#64 = [8, 0, 0, 0, 0, 0, 0, 0] := by decide

/-- `left_encode(0)` and `right_encode(256)` of SP 800-185, as R301 gives the functions. -/
theorem test_encodings : leftEncode 0 = [1, 0] ∧ rightEncode 256 = [1, 0, 2] := by decide

/-- The prefix block of the cSHAKE example of R303, whose customization is "Email Signature". -/
theorem test_cshake_prefix :
    let email : List Byte := [0x45, 0x6D, 0x61, 0x69, 0x6C, 0x20, 0x53, 0x69, 0x67, 0x6E, 0x61, 0x74, 0x75, 0x72, 0x65]
    cshakeStart .n128 256 [] email 168 =
      ([.write 0x010 4 256, .write 0x000 4 0x014C0080],
        [0x01, 0xA8, 0x01, 0x00, 0x01, 0x78] ++ email ++ List.replicate 147 0) := by decide +kernel

/-! ### One step of each command -/

theorem test_initMd5 : seen (fun t => (errors t, cfgWord t, words 4 t)) (writes 0x01100000 idle) =
    some ((0x100, 0), 0x00100000, [0x67452301, 0xEFCDAB89, 0x98BADCFE, 0x10325476]) := by decide +kernel

/-- INIT.* is the only way out of an error (R317; 95_test_vectors.md 2.6). -/
theorem test_initMd5_clears_the_error :
    seen errors (writes 0x01100000 { idle with err := .bufSize, errcmd := 0x03000000 }) = some (0x100, 0) := by
  decide +kernel

theorem test_initSha1 : seen (words 5) (writes 0x01200000 idle) =
    some [0x67452301, 0xEFCDAB89, 0x98BADCFE, 0x10325476, 0xC3D2E1F0] := by decide +kernel

theorem test_initSha256 : seen (words 8) (writes 0x01300000 idle) =
    some [0x6A09E667, 0xBB67AE85, 0x3C6EF372, 0xA54FF53A, 0x510E527F, 0x9B05688C, 0x1F83D9AB, 0x5BE0CD19] := by
  decide +kernel

/-- `ARG_OUTBITS = 12` is not looked at for SHA-3 (R318). -/
theorem test_initKeccak_fixed : seen (fun t => (errors t, t.outbits, dsize t, chunk t))
    (writes 0x01440100 { idle with argOutbits := 12 }) = some ((0x100, 0), 256, 32, 136) := by decide +kernel

/-- INIT.KECCAK 200, SHA3 on an MD5 instance: rejected, and the instance survives (95_test_vectors.md 2.6). -/
theorem test_initKeccak_rejected : seen (fun t => (errors t, cfgWord t)) (writes 0x014400C8 (fresh .md5)) =
    some ((0x106, 0x014400C8), 0x00100000) := by decide +kernel

/-- 70 bytes `00 01 ... 45` to a fresh MD5 instance (95_test_vectors.md 2.4). -/
theorem test_update : seen (fun t => (words 4 t, t.buflen, t.total, bufWord t 0, bufWord t 1, bufWord t 2))
    (writes 0x02000000
      { holding ((List.range 70).map (BitVec.ofNat 8)) (fresh .md5) with srcCnt := 70 }) =
    some ([0x9144D9CA, 0xD901E4C9, 0x72FC5B38, 0x625FF51E], 6, 70, 0x43424140, 0x00004544, 0) := by
  decide +kernel

/-- One byte too many at the top of memory (95_test_vectors.md 2.6). -/
theorem test_update_range : seen (fun t => (errors t, t.buflen, t.total))
    (writes 0x02000000 { fresh .md5 with srcAddr := 0xFFFFFFF0, srcCnt := 0x11 }) =
    some ((0x105, 0x02000000), 0, 0) := by decide +kernel

/-- MD5 of the empty message (95_test_vectors.md S1), at the top of memory; the instance is fresh again. -/
theorem test_digest_md5 :
    seen (fun t => (t.mem.readBytes 0xFFFFFFF0 16, words 4 t, t.buflen, t.total))
      (writes 0x03000000 { fresh .md5 with dstAddr := 0xFFFFFFF0, dstLen := 16 }) =
    some ([0xd4, 0x1d, 0x8c, 0xd9, 0x8f, 0x00, 0xb2, 0x04, 0xe9, 0x80, 0x09, 0x98, 0xec, 0xf8, 0x42, 0x7e],
      [0x67452301, 0xEFCDAB89, 0x98BADCFE, 0x10325476], 0, 0) := by decide +kernel

/-- The first bytes of SHA3-256 of the empty message (95_test_vectors.md 3.2). -/
theorem test_digest_sha3 :
    seen (fun t => t.mem.readBytes 0 8) (writes 0x03000000 { sponge .sha3 256 256 with dstLen := 32 }) =
    some [0xa7, 0xff, 0xc6, 0xf8, 0xbf, 0x1e, 0xd7, 0x66] := by decide +kernel

/-- RESET drops the partial message and keeps the configuration (R145). -/
theorem test_reset : seen (fun t => (words 4 t, t.buflen, t.total, cfgWord t))
    (writes 0x04000000 { fresh .md5 with buflen := 6, total := 70, h := Vector.replicate 50 1 }) =
    some ([0x67452301, 0xEFCDAB89, 0x98BADCFE, 0x10325476], 0, 0, 0x00100000) := by decide +kernel

theorem test_reset_not_created : seen errors (writes 0x04000000 idle) = some (0x002, 0x04000000) := by
  decide +kernel

/-- 95_test_vectors.md 2.5. -/
theorem test_xfMd5 : seen (words 4) (writes 0x10000000 (holding counting (fresh .md5))) =
    some [0x9144D9CA, 0xD901E4C9, 0x72FC5B38, 0x625FF51E] := by decide +kernel

theorem test_xfSha1 : seen (words 5) (writes 0x11000000 (holding counting (fresh .sha1))) =
    some [0xB9AC757B, 0xBC297925, 0x2E227274, 0x06872F94, 0xCBEA56A1] := by decide +kernel

/-- XF.SHA1 on an MD5 instance (95_test_vectors.md 2.6). -/
theorem test_xfSha1_wrong_alg : seen (fun t => (errors t, words 4 t)) (writes 0x11000000 (fresh .md5)) =
    some ((0x107, 0x11000000), [0x67452301, 0xEFCDAB89, 0x98BADCFE, 0x10325476]) := by decide +kernel

theorem test_xfSha256 : seen (words 8) (writes 0x12000000 (holding counting (fresh .sha256))) =
    some [0xFC99A2DF, 0x88F42A7A, 0x7BB9D180, 0x33CDC6A2, 0x0256755F, 0x9D5B9A50, 0x44A9CC31, 0x5ABE84A7] := by
  decide +kernel

/-- `KECCAK_F` of the zero state, its first ten words (95_test_vectors.md 3.1). -/
theorem test_xfKeccakf : seen (words 10) (writes 0x13000000 (sponge .keccak 256 256)) =
    some [0x40E1DDE7, 0xF1258F79, 0x33C0478A, 0x84D5CCF9, 0xA65AA9EE, 0xD598261E, 0x6F80494D, 0xBD154730,
      0x6253D057, 0x8B284E05] := by decide +kernel

/-! ### Rejections: 95_test_vectors.md 2.6 -/

theorem test_illegal_after_reset : seen errors (writes 0x00000000 idle) = some (0x001, 0) := by decide +kernel

theorem test_illegal_update_word : seen errors (writes 0x02000001 (fresh .md5)) =
    some (0x101, 0x02000001) := by decide +kernel

theorem test_bufsize_before_range : seen errors
    (writes 0x03000000 { fresh .md5 with dstLen := 3, dstAddr := 0xFFFFFFFF }) =
    some (0x104, 0x03000000) := by decide +kernel

theorem test_ignored_while_in_error : seen (fun t => (errors t, t.cmd))
    (writes 0x04000000 { fresh .md5 with err := .bufSize, errcmd := 0x03000000 }) =
    some ((0x104, 0x03000000), 0x04000000) := by decide +kernel

/-! ### The state after reset, and the port -/

theorem test_reset_memory_wf : State.reset.mem.wf = true := by decide

theorem test_withFetchWord : step (State.reset.withFetchWord 32 0x04000000) =
    .next { State.reset with err := .notCreated, errcmd := 0x04000000, cmd := 0x04000000 } := rfl

theorem test_memory_store_of_the_fill_removes :
    (Memory.write [(3, 7)] 3 0 = []) ∧ Memory.write [(3, 7)] 1 5 = [(1, 5), (3, 7)] := by decide

/-- With `AW = 32` the high halves are hardwired 0 (R97). -/
theorem test_high_half_hardwired : seen (fun t => t.srcAddrHi)
    (step { idle with pending := [.write 0x040 4 0xFFFFFFFF] }) = some 0 := by decide +kernel

/-- `WR DST_LEN, d` with the value `d` of the last read (R112). -/
theorem test_writeBack : seen (fun t => t.dstLen)
    (step { idle with rdata := 200, pending := [.writeBack 0x024 4] }) = some 200 := by decide +kernel

/-! ### Witnesses: encoding, memory, primitives -/

theorem witness_EncodedCommandDecodesBack :
    (Instr.initKeccak .cshake 1023).wf = true ∧ Instr.xfKeccakf.wf = true := by decide

theorem witness_DecodedWordEncodesBack : decode 0x014C03FF#32 = some (.initKeccak .cshake 1023) := by decide

theorem witness_IllegalWords : decode 0xFFFFFFFF#32 = none ∧ State.reset.err = .none := ⟨by decide, rfl⟩

theorem witness_LastStore : Memory.wf [(0, 1), (5, 7)] = true ∧
    ([(0, 3), (5, 0), (0, 9)] : List (Nat × Byte)) = [(0, 3), (5, 0)] ++ (0, 9) :: [] ∧
    (∀ p ∈ ([] : List (Nat × Byte)), p.1 ≠ 0) ∧
    (∀ p ∈ ([(0, 3), (5, 0), (0, 9)] : List (Nat × Byte)), p.1 ≠ 6) := by decide

theorem witness_EqualMemories : Memory.wf [(3, 1)] = true ∧ ∀ a, Memory.read [(3, 1)] a = Memory.read [(3, 1)] a :=
  ⟨by decide, fun _ => rfl⟩

theorem witness_Rotates : (31 ≤ 31 ∧ 31 < 32) ∧ (0 ≤ 31 ∧ 0 < 32) := by decide

theorem witness_LaneRotate :
    0 ≤ 63 ∧ (1 ≤ 1 ∧ 1 ≤ 31) ∧ (1 ≤ 31 ∧ 31 ≤ 31) ∧ 32 ≤ 63 ∧ 33 ≤ 33 ∧ (33 ≤ 63 ∧ 63 ≤ 63) := by decide

/-! ### Witnesses: the step, the gate, the checks -/

theorem witness_Idle : State.reset.pending = [] := rfl

/-- The word given outright, and the word read back. -/
theorem witness_StepRuns : NextWrite (State.reset.withFetchWord 32 0x13000000) 0x000 4 0x13000000 [] ∧
    NextWrite { idle with rdata := 0x13000000, pending := [.writeBack 0x000 4] } 0x000 4 0x13000000 [] ∧
    decode 0x13000000#32 = some .xfKeccakf := ⟨.inl rfl, .inr ⟨rfl, rfl⟩, by decide⟩

/-- RESET and UPDATE are not INIT.*, nor is an illegal word. -/
theorem not_initWord (c : Word) (h : decode c = some .reset ∨ decode c = some .update ∨ decode c = none) :
    ¬ InitWord c := by
  rintro ⟨i, hd, hi⟩
  rcases h with h | h | h <;> rw [h] at hd <;> cases hd <;> cases hi

theorem witness_Gate :
    NextWrite { fresh .md5 with err := .bus, pending := [.write 0x000 4 0x04000000] } 0x000 4 0x04000000 [] ∧
    ({ fresh .md5 with err := .bus } : State).err ≠ .none ∧ ¬ InitWord 0x04000000#32 :=
  ⟨.inl rfl, by simp, not_initWord _ (.inl (by decide))⟩

/-- A platform with no device. -/
theorem not_deviceTouched (c : Word) (s : State) (h : s.plat.devices = []) : ¬ DeviceTouched c s := by
  rintro ⟨i, base, n, reach, a, -, -, -, -, hd⟩
  simp [notDevice, outsideAll, h] at hd

/-- The gate's clause. -/
theorem witness_FirstFailing_ignored : ({ fresh .md5 with err := .bus } : State).err ≠ .none ∧
    ¬ InitWord 0x04000000#32 :=
  ⟨by simp, not_initWord _ (.inl (by decide))⟩

/-- The first check that fails may be the first of the list (an illegal word). -/
theorem witness_FirstFailing_first : idle.err = .none ∧
    FirstFailing (orderedChecks 0x00000000#32 idle) .illegalCmd :=
  ⟨rfl, [], _, _, rfl, by decide, by simp⟩

/-- UPDATE of device bytes with no instance: the second check, although a device is touched. -/
theorem witness_FirstFailing_second :
    let s := { withDevice idle with srcAddr := 16, srcCnt := 16 }
    DeviceTouched 0x02000000#32 s ∧ s.err = .none ∧ FirstFailing (orderedChecks 0x02000000#32 s) .notCreated :=
  ⟨⟨.update, 16, 16, _, 31, by decide, rfl, by omega, by omega, by decide⟩, rfl,
    [(_, .illegalCmd)], _, _, rfl, ⟨not_initWord _ (.inr (.inl (by decide))), rfl⟩, by
    intro q hq
    obtain rfl : q = (decode 0x02000000#32 = none, Err.illegalCmd) := by simpa using hq
    decide⟩

/-- While `ERR ≠ 0` only INIT.* is left to check. -/
theorem witness_FirstFailing_in_error :
    (({ idle with err := .bus } : State).err ≠ .none → InitWord 0x014400C8#32) :=
  fun _ => ⟨.initKeccak .sha3 200, by decide, rfl⟩

/-- RESET on an instance fails no check. -/
theorem witness_FirstFailing_passes : ¬ DeviceTouched 0x04000000#32 (fresh .md5) ∧
    (fresh .md5).err = .none ∧ ∀ q ∈ orderedChecks 0x04000000#32 (fresh .md5), ¬ q.1 := by
  have hd : decode 0x04000000#32 = some .reset := by decide
  exact ⟨not_deviceTouched _ _ rfl, rfl, by simp [orderedChecks, hd, fresh, transformAlg, access]⟩

/-- UPDATE of 16 bytes that are a device's. -/
def deviceRead : State := { withDevice (fresh .md5) with srcAddr := 16, srcCnt := 16 }

theorem witness_DeviceRefused : deviceRead.err = .none ∧ (∀ q ∈ orderedChecks 0x02000000#32 deviceRead, ¬ q.1) ∧
    DeviceTouched 0x02000000#32 deviceRead := by
  have hd : decode 0x02000000#32 = some .update := by decide
  refine ⟨rfl, ?_, ?_⟩
  · simp [orderedChecks, hd, deviceRead, withDevice, fresh, idle, State.reset, transformAlg, access, srcBase,
      Platform.default, hostReadable, outsideAll]
  · exact ⟨.update, 16, 16, _, 31, hd, rfl, by omega, by omega, by decide⟩

theorem witness_DeviceRefused_store :
    ({ withDevice idle with pending := [.store 31 1] } : State).pending = .store 31 1 :: [] ∧
    31 < 2 ^ (withDevice idle).plat.aw ∧ notDevice (withDevice idle).plat 31 = false := by decide

theorem witness_HostStores :
    ({ withDevice idle with pending := [.store 0xFFFFFFFF 1] } : State).mem.wf = true ∧
    (0xFFFFFFFF < 2 ^ (withDevice idle).plat.aw ∧ notDevice (withDevice idle).plat 0xFFFFFFFF = true) ∧
    2 ^ (withDevice idle).plat.aw ≤ 0x100000000 := by decide

/-! ### Witnesses: ranges and invariants of small states -/

theorem source_default (s : State) (n : Nat) (hp : s.plat = Platform.default)
    (h : srcBase s + n ≤ 2 ^ 32) : SourceOk s n :=
  ⟨fun _ => by rw [hp]; exact h, fun a _ _ => by rw [hp]; exact ⟨rfl, rfl⟩⟩

theorem destination_default (s : State) (n : Nat)
    (hp : s.plat = Platform.default ∨ s.plat = { Platform.default with keccakReuse := .error })
    (h : dstBase s + n ≤ 2 ^ 32) : DestinationOk s n := by
  rcases hp with hp | hp <;>
    exact ⟨fun _ => by rw [hp]; exact h, fun a _ _ => by rw [hp]; exact ⟨rfl, rfl⟩⟩

/-- An MD5 instance with 63 live bytes and 16 source bytes at the top of memory. -/
def md5Busy : State :=
  { fresh .md5 with buflen := 63, total := 63, srcAddr := 0xFFFFFFF0, srcCnt := 16, dstLen := 16 }

theorem md5Busy_invariant : Invariant md5Busy where
  platform := by decide
  memory := by decide
  memoryBound := by decide
  source := by decide
  destination := by decide
  buffer := by decide
  noInstance := by decide
  notKeccak := by decide
  keccak := by decide
  finalized := by decide
  errorCommand := by decide
  finalizedError := by decide

/-- A SHAKE128 instance with an output of 200 bytes at the top of memory. -/
def shakeBusy : State :=
  { sponge .shake 128 1600 with buflen := 167, total := 167, dstAddr := 0xFFFFFF38, dstLen := 200 }

theorem shakeBusy_invariant : Invariant shakeBusy where
  platform := by decide
  memory := by decide
  memoryBound := by decide
  source := by decide
  destination := by decide
  buffer := by decide
  noInstance := by decide
  notKeccak := by decide
  keccak := by decide
  finalized := by decide
  errorCommand := by decide
  finalizedError := by decide

/-- The same under `KECCAK_REUSE = error`. -/
def shakeError : State := errorPolicy shakeBusy

theorem shakeError_invariant : Invariant shakeError where
  platform := by decide
  memory := by decide
  memoryBound := by decide
  source := by decide
  destination := by decide
  buffer := by decide
  noInstance := by decide
  notKeccak := by decide
  keccak := by decide
  finalized := by decide
  errorCommand := by decide
  finalizedError := by decide

theorem md5Busy_digestOk : DigestOk md5Busy :=
  ⟨⟨rfl, by decide⟩, rfl, by decide, destination_default _ _ (.inl rfl) (by decide)⟩

theorem shakeBusy_digestOk : DigestOk shakeBusy :=
  ⟨⟨rfl, by decide⟩, rfl, by decide, destination_default _ _ (.inl rfl) (by decide)⟩

theorem shakeError_digestOk : DigestOk shakeError :=
  ⟨⟨rfl, by decide⟩, rfl, by decide, destination_default _ _ (.inr rfl) (by decide)⟩

/-! ### Witnesses: INIT, RESET, UPDATE, DIGEST -/

theorem witness_InitKeccakCreates : 512 ∈ [128, 224, 256, 384, 512] ∧
    (KPad.cshake = .shake ∨ KPad.cshake = .cshake →
      ({ idle with argOutbits := 8 } : State).argOutbits.toNat % 8 = 0 ∧
      8 ≤ ({ idle with argOutbits := 8 } : State).argOutbits.toNat) := by decide

theorem witness_InitKeccakRejects : 129 ∉ [128, 224, 256, 384, 512] ∧
    ((KPad.shake = .shake ∨ KPad.shake = .cshake) ∧ idle.argOutbits.toNat < 8) ∧
    ({ idle with argOutbits := 12 } : State).argOutbits.toNat % 8 ≠ 0 ∧
    idle.err = .none ∧ ({ idle with err := .param } : State).err ≠ .none := by decide

theorem witness_ResetCommand : ({ md5Busy with err := .range } : State).err ≠ .none ∧ md5Busy.err = .none ∧ md5Busy.alg ≠ .none ∧ idle.err = .none ∧ idle.alg = .none := by
  decide

theorem witness_ResetCommand_fresh : (∀ i (hi : i < 50), i < liveCount (fresh .sha256).alg →
      (fresh .sha256).h[i] = initialWord (fresh .sha256).alg i) ∧
    (fresh .sha256).buflen = 0 ∧ (fresh .sha256).total = 0 ∧ (fresh .sha256).fin = false :=
  ⟨fun i hi hl => by
      have : i < 8 := hl
      simp [fresh, withInitial, this, liveCount], rfl, rfl, rfl⟩

theorem witness_Update : Invariant md5Busy ∧ Running md5Busy ∧ md5Busy.fin = false ∧
    SourceOk md5Busy md5Busy.srcCnt.toNat :=
  ⟨md5Busy_invariant, ⟨rfl, by decide⟩, rfl, source_default _ _ rfl (by decide)⟩

/-- The clause of `SRC_CNT = 0`. -/
theorem witness_Update_empty : Invariant { md5Busy with srcCnt := 0 } ∧ Running { md5Busy with srcCnt := 0 } ∧
    ({ md5Busy with srcCnt := 0 } : State).fin = false ∧ SourceOk { md5Busy with srcCnt := 0 } 0 :=
  ⟨{ md5Busy_invariant with }, ⟨rfl, by decide⟩, rfl, source_default _ _ rfl (by decide)⟩

/-- Two bytes at once, and one byte and one byte. -/
theorem witness_UpdateSplits : Running (fresh .md5) ∧ (fresh .md5).fin = false ∧
    (∀ p ∈ [Piece.mk 0xFFFFFFFE 0 0 2], SourceOk (withPiece p (fresh .md5)) p.cnt.toNat) ∧
    (∀ p ∈ [Piece.mk 0xFFFFFFFE 0 0 1, Piece.mk 0xFFFFFFFE 0 1 1],
      SourceOk (withPiece p (fresh .md5)) p.cnt.toNat) ∧
    [Piece.mk 0xFFFFFFFE 0 0 2].flatMap (pieceBytes (fresh .md5)) =
      [Piece.mk 0xFFFFFFFE 0 0 1, Piece.mk 0xFFFFFFFE 0 1 1].flatMap (pieceBytes (fresh .md5)) := by
  refine ⟨⟨rfl, by decide⟩, rfl, ?_, ?_, by decide⟩
  · simp only [List.forall_mem_cons, List.not_mem_nil, false_imp_iff, implies_true, and_true]
    exact source_default _ _ rfl (by decide)
  · simp only [List.forall_mem_cons, List.not_mem_nil, false_imp_iff, implies_true, and_true]
    exact ⟨source_default _ _ rfl (by decide), source_default _ _ rfl (by decide)⟩

theorem witness_DigestMd : Invariant md5Busy ∧ DigestOk md5Busy ∧ md5Busy.alg ≠ .keccak :=
  ⟨md5Busy_invariant, md5Busy_digestOk, by decide⟩

/-- The padding's two cases meet at 55 and 56 live bytes. -/
theorem witness_DigestMd_boundary : ∀ r ∈ [55#8, 56#8],
    Invariant { md5Busy with buflen := r } ∧ DigestOk { md5Busy with buflen := r } ∧
    ({ md5Busy with buflen := r } : State).alg ≠ .keccak := by
  intro r h
  simp only [List.mem_cons, List.not_mem_nil, or_false] at h
  rcases h with rfl | rfl <;>
    exact ⟨{ md5Busy_invariant with buffer := by decide, noInstance := by decide, finalized := by decide },
      ⟨⟨rfl, by decide⟩, rfl, by decide, destination_default _ _ (.inl rfl) (by decide)⟩, by decide⟩

theorem witness_DigestKeccak : Invariant shakeBusy ∧ DigestOk shakeBusy ∧ shakeBusy.alg = .keccak :=
  ⟨shakeBusy_invariant, shakeBusy_digestOk, rfl⟩

theorem witness_DigestResets : Invariant shakeBusy ∧ DigestOk shakeBusy ∧
    (shakeBusy.alg = .keccak → shakeBusy.plat.keccakReuse = .reset) :=
  ⟨shakeBusy_invariant, shakeBusy_digestOk, fun _ => rfl⟩

theorem witness_DigestFinalizes : Invariant shakeError ∧ DigestOk shakeError ∧ shakeError.alg = .keccak ∧
    shakeError.plat.keccakReuse = .error :=
  ⟨shakeError_invariant, shakeError_digestOk, rfl, rfl⟩

/-- A shorter and a longer output of one instance. -/
theorem witness_ShorterOutput : DigestOk { shakeBusy with dstAddr := 0 } ∧
    DigestOk { shakeBusy with dstAddr := 0, outbits := 8000, dstLen := BitVec.ofNat 32 ((8000#32).toNat / 8) } ∧
    ({ shakeBusy with dstAddr := 0 } : State).outbits.toNat ≤ (8000#32).toNat :=
  ⟨⟨⟨rfl, by decide⟩, rfl, by decide, destination_default _ _ (.inl rfl) (by decide)⟩,
   ⟨⟨rfl, by decide⟩, rfl, by decide, destination_default _ _ (.inl rfl) (by decide)⟩, by decide⟩

/-- The host's operands for one piece of 2 bytes and a digest of 16. -/
def host : State := { idle with argOutbits := 128, dstLen := 16 }

theorem witness_StreamedHash : (Instr.initMd5 = .initMd5 ∧ Alg.md5 = .md5) ∧ host.plat.legal = true ∧
    host.mem.wf = true ∧ (∀ p ∈ [Piece.mk 0xFFFFFFFE 0 0 2], SourceOk (withPiece p host) p.cnt.toNat) ∧
    host.dstLen.toNat = dsizeOf .md5 0 ∧ DestinationOk host (dsizeOf .md5 0) := by
  refine ⟨⟨rfl, rfl⟩, by decide, by decide, ?_, by decide, destination_default _ _ (.inl rfl) (by decide)⟩
  simp only [List.forall_mem_cons, List.not_mem_nil, false_imp_iff, implies_true, and_true]
  exact source_default _ _ rfl (by decide)

theorem witness_StreamedSponge : 128 ∈ [128, 224, 256, 384, 512] ∧
    (KPad.shake = .shake ∨ KPad.shake = .cshake → host.argOutbits.toNat % 8 = 0 ∧ 8 ≤ host.argOutbits.toNat) ∧
    host.plat.legal = true ∧ host.mem.wf = true ∧
    (∀ p ∈ [Piece.mk 0xFFFFFFFE 0 0 2], SourceOk (withPiece p host) p.cnt.toNat) ∧
    host.dstLen.toNat =
      (if KPad.shake = .shake ∨ KPad.shake = .cshake then host.argOutbits.toNat else 128) / 8 ∧
    DestinationOk host 16 := by
  refine ⟨by decide, by decide, by decide, by decide, ?_, by decide,
    destination_default _ _ (.inl rfl) (by decide)⟩
  simp only [List.forall_mem_cons, List.not_mem_nil, false_imp_iff, implies_true, and_true]
  exact source_default _ _ rfl (by decide)

/-! ### Witnesses: pseudo-commands -/

theorem witness_PseudoCommands : idle.plat.legal = true ∧
    ({ idle with pending := updateAt 1 2 3 } : State).pending = updateAt 1 2 3 ++ [] ∧
    ({ idle with pending := updateAll 1 3 } : State).pending = updateAll 1 3 ++ [] ∧
    ({ idle with pending := digestTo 1 } : State).pending = digestTo 1 ++ [] := by decide

/-- The hash of 16 bytes at the top of memory, from a core in error with an unfinished computation. -/
theorem witness_OneShotHash :
    let s := { md5Busy with err := .bus, pending := hashOneShot .sha256 0xFFFFFFF0 16 0xFFFFFFE0 }
    (OneShot.sha256, Alg.sha256, 32) ∈ [(OneShot.md5, Alg.md5, 16), (.sha1, .sha1, 20), (.sha256, .sha256, 32)] ∧
    s.pending = hashOneShot .sha256 0xFFFFFFF0 16 0xFFFFFFE0 ++ [] ∧ s.plat.legal = true ∧ s.mem.wf = true ∧
    SourceOk { s with srcAddr := 0xFFFFFFF0, srcOff := 0, srcCnt := 16, dstAddr := 0xFFFFFFE0 } 16 ∧
    DestinationOk { s with srcAddr := 0xFFFFFFF0, srcOff := 0, srcCnt := 16, dstAddr := 0xFFFFFFE0 } 32 :=
  ⟨by decide, by decide, by decide, by decide, source_default _ _ rfl (by decide),
    destination_default _ _ (.inl rfl) (by decide)⟩

theorem witness_NamedVariants :
    ({ idle with pending := initVariant (.shake .n128 8) } : State).pending = initVariant (.shake .n128 8) ++ [] ∧
    ((8#32).toNat % 8 = 0 ∧ 8 ≤ (8#32).toNat) ∧
    ({ idle with pending := initVariant (.sha3 .n512) } : State).pending = initVariant (.sha3 .n512) ++ [] := by
  decide

/-! ### Witnesses: XF -/

theorem witness_XfMd5 : Running (fresh .md5) ∧ (fresh .md5).alg = .md5 ∧
    SourceOk { fresh .md5 with srcAddr := 0xFFFFFFC0 } 64 :=
  ⟨⟨rfl, by decide⟩, rfl, source_default _ _ rfl (by decide)⟩

theorem witness_XfSha1 : Running (fresh .sha1) ∧ (fresh .sha1).alg = .sha1 ∧
    SourceOk { fresh .sha1 with srcAddr := 0xFFFFFFC0 } 64 :=
  ⟨⟨rfl, by decide⟩, rfl, source_default _ _ rfl (by decide)⟩

theorem witness_XfSha256 : Running (fresh .sha256) ∧ (fresh .sha256).alg = .sha256 ∧
    SourceOk { fresh .sha256 with srcAddr := 0xFFFFFFC0 } 64 :=
  ⟨⟨rfl, by decide⟩, rfl, source_default _ _ rfl (by decide)⟩

theorem witness_XfKeccakf : Running shakeBusy ∧ shakeBusy.alg = .keccak ∧ shakeBusy.fin = false :=
  ⟨⟨rfl, by decide⟩, rfl, rfl⟩

theorem witness_XfKeccakf_finalized :
    let s := { shakeError with fin := true, buflen := 0 }
    Running s ∧ s.alg = .keccak ∧ s.fin = true := ⟨⟨rfl, by decide⟩, rfl, rfl⟩

/-! ### Witnesses: registers, reset, the whole machine -/

/-- An operand register, with the value given and with the value read back; `CMD`; a reserved offset. -/
theorem witness_RegisterWrites : 0x044 % 4 = 0 ∧ 0x044 < 0x400 ∧ idle.plat.legal = true ∧
    NextWrite { idle with pending := [.write 0x044 4 1, .read 0x044 4] } 0x044 4 1 [.read 0x044 4] ∧
    NextWrite { idle with rdata := 1, pending := [.writeBack 0x044 4, .read 0x044 4] } 0x044 4 1 [.read 0x044 4] ∧
    (∃ t, step { idle with pending := [.write 0x000 4 7, .read 0x000 4] } = .next t) ∧
    0x3FC % 4 = 0 ∧ 0x3FC < 0x400 ∧ 0x3FC ∉ [0x000, 0x010, 0x014, 0x018, 0x01C, 0x020, 0x024, 0x040, 0x044] :=
  ⟨by decide, by decide, by decide, .inl rfl, .inr ⟨rfl, rfl⟩, ⟨_, rfl⟩, by decide, by decide, by decide⟩

theorem witness_OddAccesses : (2 ≠ 4 ∨ 0x000 % 4 ≠ 0) ∧ (4 ≠ 4 ∨ 0x002 % 4 ≠ 0) ∧
    NextWrite { idle with pending := [.write 0x000 2 1] } 0x000 2 1 [] ∧
    ({ idle with pending := [.read 0x002 4] } : State).pending = .read 0x002 4 :: [] :=
  ⟨by decide, by decide, .inl rfl, rfl⟩

theorem witness_StatusReads :
    ({ idle with pending := [.read 0x004 4] } : State).pending = .read 0x004 4 :: [] ∧
    ({ idle with pending := [.read 0x00C 4] } : State).pending = .read 0x00C 4 :: [] := by decide

/-- The last word of `HV`, live and dead, and the last of `BUFW`, live and above `BUFLEN`. -/
theorem witness_Views :
    ({ shakeBusy with pending := [.read (0x100 + 4 * 49) 4] } : State).pending =
      .read (0x100 + 4 * 49) 4 :: [] ∧
    49 < liveCount shakeBusy.alg ∧ ¬ 49 < liveCount md5Busy.alg ∧
    ({ shakeBusy with pending := [.read (0x200 + 4 * 41) 4] } : State).pending =
      .read (0x200 + 4 * 41) 4 :: [] ∧
    4 * 41 + 2 < shakeBusy.buflen.toNat ∧ ¬ 4 * 41 + 3 < shakeBusy.buflen.toNat := by decide

/-- A value for each clause of the register map, at the ends of the reserved ranges. -/
theorem witness_ControlRegisters :
    ({ md5Busy with pending := [.read 0x044 4] } : State).pending = .read 0x044 4 :: [] ∧
    (0x044, md5Busy.dstAddrHi) ∈ [(0x000, md5Busy.cmd), (0x008, md5Busy.errcmd), (0x010, md5Busy.argOutbits),
      (0x014, md5Busy.srcAddr), (0x018, md5Busy.srcOff), (0x01C, md5Busy.srcCnt), (0x020, md5Busy.dstAddr),
      (0x024, md5Busy.dstLen), (0x03C, md5Busy.outbits), (0x040, md5Busy.srcAddrHi),
      (0x044, md5Busy.dstAddrHi)] ∧
    (64#32).toNat = chunk md5Busy ∧ (16#32).toNat = dsize md5Busy ∧ (63#32).toNat = md5Busy.buflen.toNat ∧
    (63#32).toNat = md5Busy.total.toNat % 2 ^ 32 ∧ (0#32).toNat = md5Busy.total.toNat / 2 ^ 32 ∧
    (0x048 % 4 = 0 ∧ 0x048 ≤ 0x048 ∧ 0x048 < 0x100) ∧ (0x1FC % 4 = 0 ∧ 0x1C8 ≤ 0x1FC ∧ 0x1FC < 0x200) ∧
    (0x3FC % 4 = 0 ∧ 0x2A8 ≤ 0x3FC ∧ 0x3FC < 0x400) := by decide

theorem witness_HardwareReset : ({ md5Busy with pending := [.reset] } : State).pending = .reset :: [] := rfl

/-- A DIGEST cut short. -/
theorem witness_CutCommand : md5Busy.mem.wf = true ∧
    ({ md5Busy with pending := [.cutCommand 0x03000000] } : State).pending = .cutCommand 0x03000000 :: [] ∧
    ¬ DeviceTouched 0x03000000#32 { md5Busy with pending := [.cutCommand 0x03000000] } := by
  exact ⟨by decide, rfl, not_deviceTouched _ _ rfl⟩

theorem witness_CommandsChange : ∃ t, exec .reset (fresh .md5) = .next t := ⟨_, rfl⟩

/-- RESET and hardware reset of an instance with bytes in it change `TOTAL`. -/
theorem witness_TotalChanges :
    (∃ t, step { md5Busy with pending := [.write 0x000 4 0x04000000] } = .next t ∧ t.total ≠ md5Busy.total) ∧
    (∃ t, step { md5Busy with pending := [.reset] } = .next t ∧ t.total ≠ md5Busy.total) :=
  ⟨⟨_, rfl, by decide⟩, ⟨_, rfl, by decide⟩⟩

theorem witness_ErrorsAreSticky :
    (∃ t, step { idle with err := .bus, pending := [.write 0x000 4 0x04000000] } = .next t) ∧
    (∃ t, step { idle with err := .bus, pending := [.write 0x000 4 0x01100000] } = .next t) ∧
    ({ idle with err := .bus } : State).err ≠ .none :=
  ⟨⟨_, rfl⟩, ⟨_, rfl⟩, by decide⟩

theorem witness_Configuration : ∃ t, step { idle with pending := [.write 0x000 4 0x01200000] } = .next t :=
  ⟨_, rfl⟩

theorem witness_StepKeepsTheInvariant : Invariant md5Busy ∧ ∃ t, step md5Busy = .next t :=
  ⟨md5Busy_invariant, _, rfl⟩

/-- Two states that differ in a dead word and in a byte above `BUFLEN`. -/
theorem witness_HiddenStorage : Invariant md5Busy ∧ SameVisible md5Busy
    { md5Busy with h := md5Busy.h.set 4 1, buf := md5Busy.buf.set 63 1 } := by
  refine ⟨md5Busy_invariant, rfl, fun i hi hl => ?_, fun k hk hl => ?_⟩
  · have : i < 4 := hl
    exact Vector.getElem_set_ne (by omega) (by omega) (by omega)
  · have : k < 63 := hl
    exact Vector.getElem_set_ne (by omega) (by omega) (by omega)

end Sys2Proof.Tests
end

section
/-! SUPPORT. `STATUS`, `CFG` and hardware reset: the words field by field, what a register read and a reset do in
one step, and the obligations of 10_state.md about them. -/

namespace Sys2Proof.Machine

open Sys2Proof.Claims

/-! ### One access, one step -/

/-- A read of the legal form is taken, and is `readReg` (R96, R98). -/
theorem step_read {s : State} {offset : Nat} {rest : List HostOp}
    (hp : s.pending = .read offset 4 :: rest) (hm : offset % 4 = 0) (hl : offset < 0x400) :
    step s = .next (readReg (regAt offset) { s with pending := rest }) := by
  unfold step
  rw [hp]
  exact checkAccess_legal offset hm hl _

/-- A reset between commands is taken, and is `hardReset` (R350). -/
theorem step_reset {s : State} {rest : List HostOp} (hp : s.pending = .reset :: rest) :
    step s = .next (hardReset { s with pending := rest }) := by
  unfold step
  rw [hp]
  rfl

/-- A read of a register that draws nothing changes `rdata` alone (R69). -/
theorem readReg_of_no_draw {r : Reg} {s : State} (h : regDraws r s = 0) :
    readReg r s = { s with rdata := regValue r s } := by
  simp [readReg, h]

/-! ### Codes -/

theorem errCode_eq_errorNumber (e : Err) : errCode e = errorNumber e := by cases e <;> rfl

theorem algCode_eq_algorithmNumber (a : Alg) : algCode a = algorithmNumber a := by cases a <;> rfl

theorem kpadCode_eq_paddingNumber (p : KPad) : kpadCode p = paddingNumber p := by cases p <;> rfl

theorem errCode_lt (e : Err) : errCode e < 9 := by cases e <;> decide

theorem algCode_lt (a : Alg) : algCode a < 5 := by cases a <;> decide

theorem kpadCode_lt (p : KPad) : kpadCode p < 4 := by cases p <;> decide

/-! ### Fields of a word -/

/-- A field of a word, as a number. -/
theorem toNat_field (w : Word) (lo len : Nat) :
    (w.extractLsb' lo len).toNat = w.toNat / 2 ^ lo % 2 ^ len := by
  rw [BitVec.extractLsb'_toNat, Nat.shiftRight_eq_div_pow]

/-- A bit of a word, read off its number. -/
theorem getLsbD_eq_of_div_mod {w : Word} {i : Nat} {b : Bool} (h : w.toNat / 2 ^ i % 2 = b.toNat) :
    w.getLsbD i = b := by
  rw [BitVec.getLsbD, Nat.testBit_eq_decide_div_mod_eq, h]
  cases b <;> rfl

/-! ### `STATUS` (R38) -/

/-- `STATUS` as a number: the sum does not overflow, each field has its own bits. -/
theorem toNat_statusWord (s : State) :
    (statusWord s).toNat = errCode s.err + 2 ^ 8 * (created s).toNat + 2 ^ 9 * s.fin.toNat := by
  have he := errCode_lt s.err
  unfold statusWord
  rw [BitVec.toNat_ofNat]
  cases created s <;> cases s.fin <;> simp <;> omega

theorem statusWord_err (s : State) :
    ((statusWord s).extractLsb' 0 8).toNat = errorNumber s.err := by
  have he := errCode_lt s.err
  rw [toNat_field, toNat_statusWord, ← errCode_eq_errorNumber]
  omega

theorem statusWord_created (s : State) : (statusWord s).getLsbD 8 = decide (s.alg ≠ .none) := by
  have he := errCode_lt s.err
  have hc := Bool.toNat_lt (created s)
  apply getLsbD_eq_of_div_mod
  rw [toNat_statusWord, ← created]
  omega

theorem statusWord_fin (s : State) : (statusWord s).getLsbD 9 = s.fin := by
  have he := errCode_lt s.err
  have hc := Bool.toNat_lt (created s)
  have hf := Bool.toNat_lt s.fin
  apply getLsbD_eq_of_div_mod
  rw [toNat_statusWord]
  omega

theorem statusWord_unused (s : State) : (statusWord s).extractLsb' 10 22 = 0#22 := by
  have he := errCode_lt s.err
  have hc := Bool.toNat_lt (created s)
  have hf := Bool.toNat_lt s.fin
  apply BitVec.eq_of_toNat_eq
  rw [toNat_field, toNat_statusWord, BitVec.toNat_ofNat]
  omega

/-! ### `CFG` (R37) -/

/-- `CFG` as a number: the sum does not overflow, each field has its own bits. -/
theorem toNat_cfgWord (s : State) :
    (cfgWord s).toNat = algCode s.alg * 2 ^ 20 + kpadCode s.kpad * 2 ^ 18 + s.kbits.toNat := by
  have ha := algCode_lt s.alg
  have hp := kpadCode_lt s.kpad
  have hk := s.kbits.isLt
  unfold cfgWord
  rw [BitVec.toNat_ofNat]
  omega

theorem cfgWord_alg (s : State) :
    ((cfgWord s).extractLsb' 20 4).toNat = algorithmNumber s.alg := by
  have ha := algCode_lt s.alg
  have hp := kpadCode_lt s.kpad
  have hk := s.kbits.isLt
  rw [toNat_field, toNat_cfgWord, ← algCode_eq_algorithmNumber]
  omega

theorem cfgWord_kpad (s : State) :
    ((cfgWord s).extractLsb' 18 2).toNat = paddingNumber s.kpad := by
  have hp := kpadCode_lt s.kpad
  have hk := s.kbits.isLt
  rw [toNat_field, toNat_cfgWord, ← kpadCode_eq_paddingNumber]
  omega

theorem cfgWord_kbits (s : State) : (cfgWord s).extractLsb' 0 10 = s.kbits := by
  have hk := s.kbits.isLt
  apply BitVec.eq_of_toNat_eq
  rw [toNat_field, toNat_cfgWord]
  omega

theorem cfgWord_unused_middle (s : State) : (cfgWord s).extractLsb' 10 8 = 0#8 := by
  have hk := s.kbits.isLt
  apply BitVec.eq_of_toNat_eq
  rw [toNat_field, toNat_cfgWord, BitVec.toNat_ofNat]
  omega

theorem cfgWord_unused_top (s : State) : (cfgWord s).extractLsb' 24 8 = 0#8 := by
  have ha := algCode_lt s.alg
  have hp := kpadCode_lt s.kpad
  have hk := s.kbits.isLt
  apply BitVec.eq_of_toNat_eq
  rw [toNat_field, toNat_cfgWord, BitVec.toNat_ofNat]
  omega

/-! ### Hardware reset -/

theorem chunk_of_alg_none {s : State} (h : s.alg = .none) : chunk s = 0 := by simp [chunk, chunkOf, h]

theorem dsize_of_alg_none {s : State} (h : s.alg = .none) : dsize s = 0 := by simp [dsize, dsizeOf, h]

theorem statusWord_of_reset {s : State} (he : s.err = .none) (ha : s.alg = .none) (hf : s.fin = false) :
    statusWord s = 0 := by
  simp [statusWord, errCode, created, he, ha, hf]

theorem cfgWord_of_reset {s : State} (ha : s.alg = .none) (hp : s.kpad = .keccak) (hk : s.kbits = 0) :
    cfgWord s = 0 := by
  simp [cfgWord, algCode, kpadCode, ha, hp, hk]

/-- A state that is `State.reset` but for `H`, `BUF` and what reset keeps has every register of the core at
its reset value (R46, R350). -/
theorem coreReset_of_eq {t : State}
    (h : t = { State.reset with
      h := t.h, buf := t.buf, mem := t.mem, plat := t.plat, pending := t.pending, rdata := t.rdata
      trace := t.trace, draws := t.draws }) : CoreReset t := by
  rw [h]
  exact ⟨rfl, rfl, rfl, rfl, chunk_of_alg_none rfl, dsize_of_alg_none rfl, cfgWord_of_reset rfl rfl rfl, rfl,
    rfl, rfl, statusWord_of_reset rfl rfl rfl, rfl, rfl, rfl, rfl, rfl, rfl, rfl, rfl, rfl, rfl, rfl⟩

theorem coreReset_stateReset : CoreReset State.reset := coreReset_of_eq rfl

theorem coreReset_hardReset (s : State) : CoreReset (hardReset s) := coreReset_of_eq rfl

end Sys2Proof.Machine

namespace Sys2Proof.Proofs

open Sys2Proof.Machine

/-- Settles O44: neither read draws a value, and each field of the word read is one lemma about `statusWord` or
`cfgWord`. -/
theorem statusAndConfigurationFields : Obligations.StatusAndConfigurationFields := by
  intro s rest
  refine ⟨fun hp => ?status, fun hp => ?cfg⟩
  case status =>
    exact ⟨_, step_read hp (by decide) (by decide), readReg_of_no_draw rfl,
      statusWord_err _, statusWord_created _, statusWord_fin _, statusWord_unused _⟩
  case cfg =>
    exact ⟨_, step_read hp (by decide) (by decide), readReg_of_no_draw rfl,
      cfgWord_alg _, cfgWord_kpad _, cfgWord_kbits _, cfgWord_unused_middle _, cfgWord_unused_top _⟩

/-- Settles O47: `State.reset` and every `hardReset` differ at most in `H`, `BUF` and what reset keeps. -/
theorem hardwareResetClearsTheCore : Obligations.HardwareResetClearsTheCore := by
  refine ⟨coreReset_stateReset, fun s rest hp => ⟨_, step_reset hp, coreReset_hardReset _, ?_, ?_, ?_⟩⟩
  · exact hardReset_mem _
  · exact hardReset_plat _
  · exact hardReset_pending _

end Sys2Proof.Proofs
end

section
/-! SUPPORT. The decoder by fields: a word is its five fields (R91), so a row of R94 is a condition on them, and a
word decodes to a command exactly when it is that command's encoding. -/

namespace Sys2Proof

open Sys2Proof.Machine

/-! ### A word is its five fields (R91) -/

/-- The five fields as numbers make up the word's number. -/
theorem toNat_eq_fields (c : Word) :
    c.toNat = (fieldOp c).toNat * 2 ^ 24 + (fieldAlg c).toNat * 2 ^ 20 + (fieldKpad c).toNat * 2 ^ 18
      + (fieldZero c).toNat * 2 ^ 10 + (fieldKbits c).toNat := by
  have hc := c.isLt
  simp only [fieldOp, fieldAlg, fieldKpad, fieldZero, fieldKbits, toNat_field]
  omega

theorem word_ext_fields {c d : Word} (hop : fieldOp c = fieldOp d) (halg : fieldAlg c = fieldAlg d)
    (hkpad : fieldKpad c = fieldKpad d) (hzero : fieldZero c = fieldZero d)
    (hkbits : fieldKbits c = fieldKbits d) : c = d := by
  apply BitVec.eq_of_toNat_eq
  rw [toNat_eq_fields c, toNat_eq_fields d, hop, halg, hkpad, hzero, hkbits]

theorem word_eq_iff_fields (c d : Word) :
    c = d ↔ fieldOp c = fieldOp d ∧ fieldAlg c = fieldAlg d ∧ fieldKpad c = fieldKpad d ∧
      fieldZero c = fieldZero d ∧ fieldKbits c = fieldKbits d :=
  ⟨fun h => by simp [h], fun ⟨h1, h2, h3, h4, h5⟩ => word_ext_fields h1 h2 h3 h4 h5⟩

@[simp] theorem fieldOp_and (c d : Word) : fieldOp (c &&& d) = fieldOp c &&& fieldOp d :=
  BitVec.extractLsb'_and

@[simp] theorem fieldAlg_and (c d : Word) : fieldAlg (c &&& d) = fieldAlg c &&& fieldAlg d :=
  BitVec.extractLsb'_and

@[simp] theorem fieldKpad_and (c d : Word) : fieldKpad (c &&& d) = fieldKpad c &&& fieldKpad d :=
  BitVec.extractLsb'_and

@[simp] theorem fieldZero_and (c d : Word) : fieldZero (c &&& d) = fieldZero c &&& fieldZero d :=
  BitVec.extractLsb'_and

@[simp] theorem fieldKbits_and (c d : Word) : fieldKbits (c &&& d) = fieldKbits c &&& fieldKbits d :=
  BitVec.extractLsb'_and

/-! ### The rows of R94 -/

/-- Every row but INIT.KECCAK's fixes the whole word. -/
theorem matches_fixedRow (c p : Word) : c &&& 0xFFFFFFFF#32 = p ↔ c = p := by
  rw [show (0xFFFFFFFF#32) = BitVec.allOnes 32 from rfl, BitVec.and_allOnes]

/-- A word of INIT.KECCAK's row, by its fields. -/
def IsKeccakWord (c : Word) : Prop := fieldOp c = 0x01#8 ∧ fieldAlg c = 4#4 ∧ fieldZero c = 0#8

/-- INIT.KECCAK's row fixes `op`, `alg` and `zero`. -/
theorem matches_keccakRow (c : Word) :
    c &&& 0xFFF3FC00#32 = 0x01400000#32 ↔ IsKeccakWord c := by
  rw [word_eq_iff_fields, fieldOp_and, fieldAlg_and, fieldKpad_and, fieldZero_and, fieldKbits_and,
    show fieldOp 0xFFF3FC00#32 = BitVec.allOnes 8 from rfl,
    show fieldAlg 0xFFF3FC00#32 = BitVec.allOnes 4 from rfl, show fieldKpad 0xFFF3FC00#32 = 0#2 from rfl,
    show fieldZero 0xFFF3FC00#32 = BitVec.allOnes 8 from rfl, show fieldKbits 0xFFF3FC00#32 = 0#10 from rfl]
  simp only [BitVec.and_allOnes, BitVec.and_zero]
  exact ⟨fun ⟨h1, h2, _, h4, _⟩ => ⟨h1, h2, h4⟩, fun ⟨h1, h2, h4⟩ => ⟨h1, h2, rfl, h4, rfl⟩⟩

/-- The words of the ten rows that fix every bit. -/
def fixedWords : List Word :=
  [0x01100000#32, 0x01200000#32, 0x01300000#32, 0x02000000#32, 0x03000000#32, 0x04000000#32,
    0x10000000#32, 0x11000000#32, 0x12000000#32, 0x13000000#32]

/-- A word is illegal exactly when no row matches it (R94, R100). -/
theorem decode_eq_none_iff (c : Word) : decode c = none ↔ ¬ (c ∈ fixedWords ∨ IsKeccakWord c) := by
  rw [decode, Option.map_eq_none_iff, List.find?_eq_none, opcodeMap]
  simp only [List.forall_mem_cons, beq_iff_eq, matches_fixedRow, matches_keccakRow]
  simp only [fixedWords, List.mem_cons, List.not_mem_nil, false_imp_iff, implies_true]
  tauto

theorem not_mem_fixedWords {c : Word} (h : fieldAlg c = 4#4) : c ∉ fixedWords := by
  have : ∀ w ∈ fixedWords, fieldAlg w ≠ 4#4 := by simp [fixedWords, fieldAlg]
  exact fun hc => this c hc h

/-- A word of INIT.KECCAK's row is of no earlier row, so it decodes by its own fields. -/
theorem decode_of_isKeccakWord {c : Word} (h : IsKeccakWord c) :
    decode c = some (.initKeccak (kpadOf (fieldKpad c)) (fieldKbits c).toNat) := by
  have hn := not_mem_fixedWords h.2.1
  simp only [fixedWords, List.mem_cons, List.not_mem_nil, or_false, not_or] at hn
  obtain ⟨h1, h2, h3, -⟩ := hn
  have hk : (c &&& 0xFFF3FC00#32 == 0x01400000#32) = true := beq_iff_eq.2 ((matches_keccakRow c).2 h)
  simp [decode, opcodeMap, matches_fixedRow, h1, h2, h3, hk]

/-! ### Encoding and decoding -/

theorem kpadOf_ofNat_kpadCode (p : KPad) : kpadOf (BitVec.ofNat 2 (kpadCode p)) = p := by cases p <;> rfl

theorem kpadCode_kpadOf (b : BitVec 2) : kpadCode (kpadOf b) = b.toNat := by revert b; decide

/-- The fields of INIT.KECCAK's encoding. -/
theorem fields_encode_initKeccak (kpad : KPad) (kbits : Nat) (h : kbits < 2 ^ 10) :
    IsKeccakWord (encode (.initKeccak kpad kbits)) ∧
      fieldKpad (encode (.initKeccak kpad kbits)) = BitVec.ofNat 2 (kpadCode kpad) ∧
      (fieldKbits (encode (.initKeccak kpad kbits))).toNat = kbits := by
  have hf := Laws.Fields.initKeccak kpad kbits (by simpa [Instr.wf] using h)
  simp only [Laws.Fields.actual, Laws.Fields.expected, Prod.mk.injEq] at hf
  obtain ⟨hop, halg, hkpad, hzero, hkbits⟩ := hf
  refine ⟨⟨BitVec.eq_of_toNat_eq hop, BitVec.eq_of_toNat_eq halg, BitVec.eq_of_toNat_eq hzero⟩, ?_, hkbits⟩
  rw [← hkpad, BitVec.ofNat_toNat, BitVec.setWidth_eq]

theorem decode_encode_initKeccak (kpad : KPad) (kbits : Nat) (h : kbits < 2 ^ 10) :
    decode (encode (.initKeccak kpad kbits)) = some (.initKeccak kpad kbits) := by
  obtain ⟨hw, hp, hk⟩ := fields_encode_initKeccak kpad kbits h
  rw [decode_of_isKeccakWord hw, hp, hk, kpadOf_ofNat_kpadCode]

/-- Every well-formed command decodes back from its word (R94, R105). -/
theorem decode_encode (i : Instr) (h : i.wf = true) : decode (encode i) = some i := by
  cases i with
  | initKeccak kpad kbits => exact decode_encode_initKeccak kpad kbits (of_decide_eq_true h)
  | _ => rfl

/-- A word of INIT.KECCAK's row is the encoding of the command it decodes to. -/
theorem encode_of_isKeccakWord {c : Word} (h : IsKeccakWord c) :
    encode (.initKeccak (kpadOf (fieldKpad c)) (fieldKbits c).toNat) = c := by
  obtain ⟨hop, halg, hzero⟩ := h
  have hc := toNat_eq_fields c
  rw [hop, halg, hzero, BitVec.toNat_ofNat, BitVec.toNat_ofNat, BitVec.toNat_ofNat] at hc
  have hlt := c.isLt
  apply BitVec.eq_of_toNat_eq
  rw [encode, kpadCode_kpadOf, BitVec.toNat_ofNat]
  omega

theorem isKeccakWord_of_decode {c : Word} {kpad : KPad} {kbits : Nat}
    (h : decode c = some (.initKeccak kpad kbits)) : IsKeccakWord c := by
  have hs : c ∈ fixedWords ∨ IsKeccakWord c := by
    by_contra hn
    simp [(decode_eq_none_iff c).2 hn] at h
  refine hs.resolve_left fun hm => ?_
  have : ∀ w ∈ fixedWords, decode w ≠ some (.initKeccak kpad kbits) := by simp [fixedWords, decode, opcodeMap]
  exact this c hm h

/-- The words that decode to INIT.KECCAK are those of its row. -/
theorem isKeccakWord_iff (c : Word) :
    IsKeccakWord c ↔ ∃ kpad kbits, decode c = some (.initKeccak kpad kbits) :=
  ⟨fun h => ⟨_, _, decode_of_isKeccakWord h⟩, fun ⟨_, _, h⟩ => isKeccakWord_of_decode h⟩

theorem decode_eq_initKeccak_iff (c : Word) (kpad : KPad) (kbits : Nat) :
    decode c = some (.initKeccak kpad kbits) ↔ kbits < 2 ^ 10 ∧ encode (.initKeccak kpad kbits) = c := by
  refine ⟨fun h => ?_, fun ⟨hk, hc⟩ => hc ▸ decode_encode_initKeccak kpad kbits hk⟩
  have hw := isKeccakWord_of_decode h
  rw [decode_of_isKeccakWord hw, Option.some.injEq, Instr.initKeccak.injEq] at h
  obtain ⟨rfl, rfl⟩ := h
  exact ⟨(fieldKbits c).isLt, encode_of_isKeccakWord hw⟩

/-- The fixed words by their fields (R92, R94): the other INIT commands, and the commands with `alg` 0. -/
theorem mem_fixedWords_iff (c : Word) :
    c ∈ fixedWords ↔
      (fieldOp c = 0x01#8 ∧ (fieldAlg c = 1#4 ∨ fieldAlg c = 2#4 ∨ fieldAlg c = 3#4) ∧
        fieldKpad c = 0#2 ∧ fieldZero c = 0#8 ∧ fieldKbits c = 0#10) ∨
      ((fieldOp c = 0x02#8 ∨ fieldOp c = 0x03#8 ∨ fieldOp c = 0x04#8 ∨ fieldOp c = 0x10#8 ∨
          fieldOp c = 0x11#8 ∨ fieldOp c = 0x12#8 ∨ fieldOp c = 0x13#8) ∧
        fieldAlg c = 0#4 ∧ fieldKpad c = 0#2 ∧ fieldZero c = 0#8 ∧ fieldKbits c = 0#10) := by
  simp only [fixedWords, List.mem_cons, List.not_mem_nil, or_false, word_eq_iff_fields c]
  simp only [fieldOp, fieldAlg, fieldKpad, fieldZero, fieldKbits, BitVec.reduceExtractLsb', and_or_left,
    or_and_right, or_assoc]

/-! ### Counting words (R102) -/

/-- The word of INIT.KECCAK with the fields `kpad` and `kbits`. -/
def keccakWord (f : BitVec 2 × BitVec 10) : Word := encode (.initKeccak (kpadOf f.1) f.2.toNat)

theorem keccakWord_injective : Function.Injective keccakWord := by
  intro f g h
  obtain ⟨-, hp, hk⟩ := fields_encode_initKeccak (kpadOf f.1) f.2.toNat f.2.isLt
  obtain ⟨-, hp', hk'⟩ := fields_encode_initKeccak (kpadOf g.1) g.2.toNat g.2.isLt
  rw [keccakWord, keccakWord] at h
  rw [h, hp', kpadCode_kpadOf, kpadCode_kpadOf, BitVec.ofNat_toNat, BitVec.ofNat_toNat] at hp
  exact Prod.ext (by simpa using hp.symm) (BitVec.eq_of_toNat_eq (by rw [← hk, ← hk', h]))

/-- The words that decode to INIT.KECCAK with a `kbits` of the kind `P`. -/
theorem initKeccak_words (P : Nat → Prop) :
    {c : Word | ∃ kpad kbits, decode c = some (.initKeccak kpad kbits) ∧ P kbits} =
      keccakWord '' (Set.univ ×ˢ {k : BitVec 10 | P k.toNat}) := by
  ext c
  simp only [Set.mem_ofPred_eq, decode_eq_initKeccak_iff, Set.mem_image, Set.mem_prod, Set.mem_univ, true_and,
    Prod.exists, keccakWord]
  constructor
  · rintro ⟨kpad, kbits, ⟨hk, rfl⟩, hP⟩
    have ht : (BitVec.ofNat 10 kbits).toNat = kbits := by rw [BitVec.toNat_ofNat, Nat.mod_eq_of_lt hk]
    exact ⟨BitVec.ofNat 2 (kpadCode kpad), BitVec.ofNat 10 kbits, by rwa [ht], by rw [kpadOf_ofNat_kpadCode, ht]⟩
  · rintro ⟨b, k, hP, rfl⟩
    exact ⟨kpadOf b, k.toNat, ⟨k.isLt, rfl⟩, hP⟩

theorem card_bitVec (n : Nat) : Nat.card (BitVec n) = 2 ^ n := by
  rw [Nat.card_congr BitVec.equivFin.toEquiv, Nat.card_fin]

/-- There are four words of INIT.KECCAK for each `kbits`. -/
theorem ncard_initKeccak_words (P : Nat → Prop) :
    Set.ncard {c : Word | ∃ kpad kbits, decode c = some (.initKeccak kpad kbits) ∧ P kbits} =
      4 * Set.ncard {k : BitVec 10 | P k.toNat} := by
  rw [initKeccak_words, Set.ncard_image_of_injective _ keccakWord_injective, Set.ncard_prod, Set.ncard_univ,
    show Nat.card (BitVec 2) = 4 from card_bitVec 2]

theorem ncard_legal_kbits :
    Set.ncard {k : BitVec 10 | k.toNat ∈ [128, 224, 256, 384, 512]} = 5 := by
  have : {k : BitVec 10 | k.toNat ∈ [128, 224, 256, 384, 512]} =
      (({128#10, 224#10, 256#10, 384#10, 512#10} : Finset (BitVec 10)) : Set (BitVec 10)) := by
    ext k
    simp [← BitVec.toNat_inj]
  rw [this, Set.ncard_coe_finset]
  rfl

theorem ncard_keccak_words :
    Set.ncard {c : Word | ∃ kpad kbits, decode c = some (.initKeccak kpad kbits)} = 4096 := by
  have h := ncard_initKeccak_words fun _ => True
  simp only [and_true, Set.ofPred_true, Set.ncard_univ, card_bitVec] at h
  exact h

/-- The words that decode are those of INIT.KECCAK and the ten fixed ones. -/
theorem decodable_words :
    {c : Word | decode c ≠ none} =
      {c : Word | ∃ kpad kbits, decode c = some (.initKeccak kpad kbits)} ∪ (fixedWords.toFinset : Set Word) := by
  ext c
  simp only [Set.mem_ofPred_eq, ne_eq, decode_eq_none_iff, not_not, Set.mem_union, Finset.mem_coe,
    List.mem_toFinset, ← isKeccakWord_iff, or_comm]

theorem keccak_words_disjoint_fixedWords :
    Disjoint {c : Word | ∃ kpad kbits, decode c = some (.initKeccak kpad kbits)}
      (fixedWords.toFinset : Set Word) := by
  rw [Set.disjoint_left]
  intro c hc
  rw [Finset.mem_coe, List.mem_toFinset]
  exact not_mem_fixedWords ((isKeccakWord_iff c).2 hc).2.1

theorem ncard_decodable_words : Set.ncard {c : Word | decode c ≠ none} = 4106 := by
  rw [decodable_words, Set.ncard_union_eq keccak_words_disjoint_fixedWords, ncard_keccak_words,
    Set.ncard_coe_finset]
  rfl

/-- An illegal word written to `CMD` while there is no error (R312). -/
theorem writeCmd_of_illegal {c : Word} {s : State} (hd : decode c = none) (he : s.err = .none) :
    writeCmd c s = .next { s with cmd := c, err := .illegalCmd, errcmd := c } := by
  simp only [writeCmd, hd]
  rw [raise_of_none _ _ { s with cmd := c } he]

end Sys2Proof

namespace Sys2Proof.Proofs

open Sys2Proof.Machine

/-- Settles O3: an illegal word is none of the fixed words and not of INIT.KECCAK's row, both said by fields. -/
theorem illegalWordsByFieldAndTheirRejection : Obligations.IllegalWordsByFieldAndTheirRejection := by
  intro c s
  refine ⟨?_, writeCmd_of_illegal⟩
  rw [decode_eq_none_iff, mem_fixedWords_iff, IsKeccakWord, or_right_comm, or_assoc]

/-- Settles O5: four words for each of the 1024 values of `kbits`, and the ten fixed words. -/
theorem howManyWordsDecode : Obligations.HowManyWordsDecode := by
  refine ⟨ncard_decodable_words, ncard_keccak_words, ?_⟩
  rw [ncard_initKeccak_words, ncard_legal_kbits]

end Sys2Proof.Proofs
end

section
/-! SUPPORT. Register accesses: what a write and a read of the legal form do in one step, which registers a write
changes (R97), what the views show (R99), and the obligations about them. -/

namespace Sys2Proof.Machine

open Sys2Proof.Claims

/-! ### One access, one step -/

/-- An access that is not 32 bits wide at a multiple of 4 is refused (R98). -/
theorem checkAccess_odd {offset width : Nat} (h : width ≠ 4 ∨ offset % 4 ≠ 0) (go : Outcome) :
    checkAccess offset width go = .refused .registerAccess := by
  have : ¬ accessFormOk offset width = true := by rw [accessFormOk_iff]; tauto
  rw [checkAccess, if_neg this]

/-- A write, outright or of what was read, is `writeReg` when the access is taken (R112). -/
theorem step_nextWrite {s : State} {offset width : Nat} {v : Word} {rest : List HostOp}
    (h : NextWrite s offset width v rest) :
    step s = checkAccess offset width (writeReg (regAt offset) v { s with pending := rest }) := by
  obtain hp | ⟨hp, rfl⟩ := h <;> rw [step, hp] <;> rfl

/-- A write of the legal form is taken. -/
theorem step_nextWrite_legal {s : State} {offset : Nat} {v : Word} {rest : List HostOp}
    (h : NextWrite s offset 4 v rest) (hm : offset % 4 = 0) (hl : offset < 0x400) :
    step s = writeReg (regAt offset) v { s with pending := rest } := by
  rw [step_nextWrite h, checkAccess_legal _ hm hl]

/-! ### Writes (R97) -/

/-- The registers that a write can change. -/
def writableRegs : List Reg :=
  [.cmd, .argOutbits, .srcAddr, .srcOff, .srcCnt, .dstAddr, .dstLen, .srcAddrHi, .dstAddrHi]

/-- A write to any other register is ignored. -/
theorem writeReg_ignored {r : Reg} (h : r ∉ writableRegs) (v : Word) (s : State) : writeReg r v s = .next s := by
  cases r <;> simp [writableRegs] at h <;> rfl

/-- The offsets of the writable registers (R96). -/
theorem offset_of_writable {offset : Nat} (hm : offset % 4 = 0) (h : regAt offset ∈ writableRegs) :
    offset ∈ [0x000, 0x010, 0x014, 0x018, 0x01C, 0x020, 0x024, 0x040, 0x044] := by
  have hcontrol : ∀ n < 64, controlReg n ∈ writableRegs →
      4 * n ∈ [0x000, 0x010, 0x014, 0x018, 0x01C, 0x020, 0x024, 0x040, 0x044] := by decide
  unfold regAt at h
  split at h
  · have := hcontrol (offset / 4) (by omega) h
    rwa [show 4 * (offset / 4) = offset by omega] at this
  · split at h
    · simp [writableRegs] at h
    · split at h
      · simp [writableRegs] at h
      · split at h <;> simp [writableRegs] at h

/-- The `k` low bits of a word, as a mask and as a remainder. -/
theorem and_lowMask (v : Word) {k : Nat} (hk : k ≤ 32) :
    v &&& BitVec.ofNat 32 (2 ^ k - 1) = BitVec.ofNat 32 (v.toNat % 2 ^ k) := by
  have hmask : 2 ^ k - 1 < 2 ^ 32 :=
    Nat.sub_one_lt_of_le (by positivity) (Nat.pow_le_pow_right (by decide) hk)
  have hv : v.toNat % 2 ^ k < 2 ^ 32 := lt_of_le_of_lt (Nat.mod_le _ _) v.isLt
  apply BitVec.eq_of_toNat_eq
  rw [BitVec.toNat_and, BitVec.toNat_ofNat, BitVec.toNat_ofNat, Nat.mod_eq_of_lt hmask, Nat.mod_eq_of_lt hv,
    Nat.and_two_pow_sub_one_eq_mod]

/-- Address bits 31..0 as implemented: those below `AW`. -/
theorem and_addrMaskLo (p : Platform) (v : Word) :
    v &&& addrMaskLo p = BitVec.ofNat 32 (v.toNat % 2 ^ p.aw) := by
  rw [addrMaskLo, and_lowMask v (min_le_right _ _)]
  obtain h | h := le_total p.aw 32
  · rw [min_eq_left h]
  · rw [min_eq_right h, Nat.mod_eq_of_lt v.isLt,
      Nat.mod_eq_of_lt (lt_of_lt_of_le v.isLt (Nat.pow_le_pow_right (by decide) h))]

/-- Address bits 63..32 as implemented. -/
theorem and_addrMaskHi {p : Platform} (hp : p.legal = true) (v : Word) :
    v &&& addrMaskHi p = BitVec.ofNat 32 (v.toNat % 2 ^ (p.aw - 32)) := by
  simp only [Platform.legal, Bool.and_eq_true, decide_eq_true_eq] at hp
  exact and_lowMask v (by omega)

/-- A command keeps `CMD` and the host's accesses to come. -/
theorem exec_keeps_port {i : Instr} {s t : State} (h : exec i s = .next t) :
    t.cmd = s.cmd ∧ t.pending = s.pending := by
  obtain ⟨a, kb, kp, o, -, -, -, -, rfl⟩ | ⟨e, -, -, rfl⟩ | ⟨-, -, rfl⟩ | ⟨-, -, h⟩ := exec_next h
  · exact ⟨rfl, rfl⟩
  · exact ⟨rfl, rfl⟩
  · exact ⟨rfl, rfl⟩
  · obtain ⟨-, rfl⟩ | ⟨-, -, -, rfl⟩ | ⟨-, -, -, -, rfl⟩ | ⟨-, -, rfl⟩ | ⟨-, -, rfl⟩ := h
    · exact ⟨rfl, rfl⟩
    · rw [updateBody_frame]; exact ⟨rfl, rfl⟩
    · rw [digestBody_frame]; exact ⟨rfl, rfl⟩
    · exact ⟨rfl, rfl⟩
    · exact ⟨rfl, rfl⟩

/-- `CMD` takes every word, legal or not, and no command writes it (R44). -/
theorem writeCmd_keeps_port {w : Word} {s t : State} (h : writeCmd w s = .next t) :
    t.cmd = w ∧ t.pending = s.pending := by
  obtain ⟨-, rfl⟩ | ⟨i, -, h⟩ := writeCmd_next h
  · exact ⟨rfl, rfl⟩
  · exact exec_keeps_port h

/-- A write to a register that draws nothing when read, then a read of it. -/
theorem step_write_read {s t : State} {offset : Nat} {v : Word} {rest : List HostOp}
    (h : NextWrite s offset 4 v (.read offset 4 :: rest)) (hm : offset % 4 = 0) (hl : offset < 0x400)
    (hw : writeReg (regAt offset) v { s with pending := .read offset 4 :: rest } = .next t)
    (hp : t.pending = .read offset 4 :: rest) (hd : regDraws (regAt offset) { t with pending := rest } = 0) :
    step s = .next t ∧ step t = .next { t with
      pending := rest, rdata := regValue (regAt offset) { t with pending := rest } } :=
  ⟨(step_nextWrite_legal h hm hl).trans hw, by rw [step_read hp hm hl, readReg_of_no_draw hd]⟩

/-! ### Views (R99) -/

theorem regAt_hv {i : Nat} (h : i < 50) : regAt (0x100 + 4 * i) = .hv i := by
  rw [regAt, if_neg (by omega), if_pos (by omega), show (0x100 + 4 * i - 0x100) / 4 = i by omega]

theorem regAt_bufw {k : Nat} (h : k < 42) : regAt (0x200 + 4 * k) = .bufw k := by
  rw [regAt, if_neg (by omega), if_neg (by omega), if_neg (by omega), if_pos (by omega),
    show (0x200 + 4 * k - 0x200) / 4 = k by omega]

theorem hvWord_live {s : State} {i : Nat} (hi : i < 50) (hl : i < liveCount s.alg) : hvWord s i = s.h[i] := by
  rw [hvWord, if_pos hl, wordAt_eq _ _ hi]

theorem visibleByte_eq (s : State) {k : Nat} (hk : k < 168) :
    visibleByte s k = if k < s.buflen.toNat then s.buf[k] else 0#8 := by
  rw [visibleByte, dif_pos hk]
  rfl

/-- Byte `j` of `BUFW[k]` is visible byte `4 k + j` (R65). -/
theorem bufWord_byte (s : State) (k : Nat) {j : Nat} (hj : j < 4) :
    (bufWord s k).extractLsb' (8 * j) 8 = visibleByte s (4 * k + j) := by
  have h0 := (visibleByte s (4 * k)).isLt
  have h1 := (visibleByte s (4 * k + 1)).isLt
  have h2 := (visibleByte s (4 * k + 2)).isLt
  have h3 := (visibleByte s (4 * k + 3)).isLt
  apply BitVec.eq_of_toNat_eq
  rw [toNat_field, bufWord, BitVec.toNat_ofNat]
  obtain rfl | hj : j = 0 ∨ 0 < j := by omega
  · simp only [Nat.add_zero]
    omega
  · interval_cases j <;> omega

end Sys2Proof.Machine

namespace Sys2Proof.Proofs

open Sys2Proof.Machine

/-- Settles O42: each operand register's write and read by `step_write_read`; a command keeps `CMD` and the pending
accesses; no other offset is that of a writable register. -/
theorem registerWritesReadBackOrAreIgnored : Obligations.RegisterWritesReadBackOrAreIgnored := by
  intro s v off rest hm hl hp hw
  rw [← and_addrMaskLo, ← and_addrMaskHi hp]
  refine ⟨fun t w ht => ?operand, fun h0 t ht => ?cmd, fun hoff => ?ignored⟩
  case operand =>
    simp only [List.mem_cons, List.not_mem_nil, or_false, Prod.mk.injEq] at ht
    rcases ht with ⟨rfl, rfl, rfl⟩ | ⟨rfl, rfl, rfl⟩ | ⟨rfl, rfl, rfl⟩ | ⟨rfl, rfl, rfl⟩ | ⟨rfl, rfl, rfl⟩ |
      ⟨rfl, rfl, rfl⟩ | ⟨rfl, rfl, rfl⟩ | ⟨rfl, rfl, rfl⟩ <;>
    exact step_write_read hw hm hl rfl rfl rfl
  case cmd =>
    subst h0
    obtain ⟨hcmd, hpend⟩ := writeCmd_keeps_port ((step_nextWrite_legal hw hm hl).symm.trans ht)
    exact ⟨_, step_read hpend hm hl, hcmd⟩
  case ignored =>
    rw [step_nextWrite_legal hw hm hl, writeReg_ignored fun h => hoff (offset_of_writable hm h)]

/-- Settles O43: both kinds of access begin with the same check of the form. -/
theorem oddRegisterAccessesAreRefused : Obligations.OddRegisterAccessesAreRefused := by
  intro s off width v rest hodd h
  obtain hw | hr := h
  · rw [step_nextWrite hw, checkAccess_odd hodd]
  · rw [step, hr]
    exact checkAccess_odd hodd _

/-- Settles O45: the read of a view is `hvWord` or `bufWord`. -/
theorem viewsOfStateAndBuffer : Obligations.ViewsOfStateAndBuffer := by
  intro s rest
  refine ⟨fun i hi hp => ?hv, fun k hk hp => ?bufw⟩
  case hv =>
    have hstep := step_read hp (by omega) (by omega)
    rw [regAt_hv hi] at hstep
    exact ⟨_, hstep, rfl, fun hlive => hvWord_live hi hlive⟩
  case bufw =>
    have hstep := step_read hp (by omega) (by omega)
    rw [regAt_bufw hk, readReg_of_no_draw rfl] at hstep
    exact ⟨_, hstep, rfl, fun j hj hjk => (bufWord_byte _ k hj).trans (visibleByte_eq _ hjk)⟩

end Sys2Proof.Proofs
end

section
/-! SUPPORT. INIT.KECCAK: when its parameters are legal (R104), what it creates (R144), and how it rejects (R318). -/

namespace Sys2Proof.Machine

open Sys2Proof.Claims

theorem variableOutput_iff (kpad : KPad) : variableOutput kpad = true ↔ kpad = .shake ∨ kpad = .cshake := by
  cases kpad <;> simp [variableOutput]

theorem outbitsLegal_iff (w : Word) : outbitsLegal w = true ↔ w.toNat % 8 = 0 ∧ 8 ≤ w.toNat := by
  simp [outbitsLegal]

/-- The parameter check of R104. -/
theorem paramsLegal_iff (kpad : KPad) (kbits : Nat) (w : Word) :
    paramsLegal kpad kbits w = true ↔
      kbits ∈ [128, 224, 256, 384, 512] ∧ (kpad = .shake ∨ kpad = .cshake → w.toNat % 8 = 0 ∧ 8 ≤ w.toNat) := by
  rw [paramsLegal, Bool.and_eq_true, kbitsLegal_iff, Bool.or_eq_true, Bool.not_eq_true', ← Bool.not_eq_true,
    variableOutput_iff, outbitsLegal_iff, imp_iff_not_or]

theorem lt_of_legal_kbits {kbits : Nat} (h : kbits ∈ [128, 224, 256, 384, 512]) : 128 ≤ kbits ∧ kbits < 2 ^ 10 := by
  simp only [List.mem_cons, List.not_mem_nil, or_false] at h
  omega

theorem toNat_kbits {kbits : Nat} (h : kbits ∈ [128, 224, 256, 384, 512]) :
    (BitVec.ofNat 10 kbits).toNat = kbits := by
  rw [BitVec.toNat_ofNat, Nat.mod_eq_of_lt (lt_of_legal_kbits h).2]

/-- With legal parameters the output length is at least one byte. -/
theorem keccakOutbits_ge {kpad : KPad} {kbits : Nat} {w : Word} (h : paramsLegal kpad kbits w = true) :
    8 ≤ (keccakOutbits kpad kbits w).toNat := by
  rw [paramsLegal_iff, ← variableOutput_iff] at h
  obtain ⟨hk, hv⟩ := h
  have hlt := lt_of_legal_kbits hk
  unfold keccakOutbits
  split
  · exact (hv ‹_›).2
  · rw [BitVec.toNat_ofNat]
    omega

/-- `CHUNK` of each strength (R35, R281). -/
theorem chunk_of_legal_kbits {kbits : Nat} (h : kbits ∈ [128, 224, 256, 384, 512]) :
    (kbits, (1600 - 2 * kbits) / 8) ∈ [(128, 168), (224, 144), (256, 136), (384, 104), (512, 72)] := by
  simp only [List.mem_cons, List.not_mem_nil, or_false] at h
  rcases h with rfl | rfl | rfl | rfl | rfl <;> simp

/-- The instance that INIT.KECCAK creates (R144). -/
def keccakInstance (kpad : KPad) (kbits : Nat) (s : State) : State :=
  createInstance .keccak (BitVec.ofNat 10 kbits) kpad (keccakOutbits kpad kbits s.argOutbits) s

theorem keccakInstance_eq (kpad : KPad) (kbits : Nat) (s : State) :
    keccakInstance kpad kbits s = { s with
      alg := .keccak, kbits := BitVec.ofNat 10 kbits, kpad := kpad
      outbits := if kpad = .shake ∨ kpad = .cshake then s.argOutbits else BitVec.ofNat 32 kbits
      h := Vector.replicate 50 0, buflen := 0, total := 0, fin := false, err := .none, errcmd := 0
      draws := s.draws + 50 } := by
  simp only [keccakInstance, createInstance, clearError, withInitial_keccak, keccakOutbits, variableOutput_iff]

theorem chunk_keccakInstance (kpad : KPad) {kbits : Nat} (s : State) (h : kbits ∈ [128, 224, 256, 384, 512]) :
    chunk (keccakInstance kpad kbits s) = (1600 - 2 * kbits) / 8 :=
  chunkOf_keccak_ofNat kbits ((kbitsLegal_iff kbits).2 h)

theorem dsize_keccakInstance (kpad : KPad) (kbits : Nat) (s : State) :
    dsize (keccakInstance kpad kbits s) = (keccakOutbits kpad kbits s.argOutbits).toNat / 8 := rfl

theorem cfgWord_keccakInstance (kpad : KPad) {kbits : Nat} (s : State) (h : kbits ∈ [128, 224, 256, 384, 512]) :
    cfgWord (keccakInstance kpad kbits s) =
      BitVec.ofNat 32 (4 * 2 ^ 20 + paddingNumber kpad * 2 ^ 18 + kbits) := by
  simp only [cfgWord, keccakInstance, createInstance_alg, createInstance_kpad, createInstance_kbits, toNat_kbits h,
    kpadCode_eq_paddingNumber]
  rfl

theorem exec_initKeccak_of_legal {kpad : KPad} {kbits : Nat} {s : State}
    (h : paramsLegal kpad kbits s.argOutbits = true) :
    exec (.initKeccak kpad kbits) s = .next (keccakInstance kpad kbits s) := by
  show check _ _ _ _ _ = _
  rw [h, check_true]
  rfl

theorem exec_initKeccak_of_illegal {kpad : KPad} {kbits : Nat} {s : State}
    (h : ¬ paramsLegal kpad kbits s.argOutbits = true) :
    exec (.initKeccak kpad kbits) s = .next (raise .param (encode (.initKeccak kpad kbits)) s) := by
  show check _ _ _ _ _ = _
  rw [Bool.not_eq_true] at h
  rw [h, check_false]

end Sys2Proof.Machine

namespace Sys2Proof.Proofs

open Sys2Proof.Machine

/-- Settles O21: the two premises are the parameter check of R104 and its negation. -/
theorem initKeccakCreatesOrRejects : Obligations.InitKeccakCreatesOrRejects := by
  intro kpad kbits
  refine ⟨fun hk => ?decodes, fun s => ⟨fun hlegal => ?creates, fun hillegal => ?rejects⟩⟩
  case decodes =>
    rw [← kpadCode_eq_paddingNumber]
    exact decode_encode_initKeccak kpad kbits hk
  case creates =>
    have hp := (paramsLegal_iff kpad kbits s.argOutbits).2 hlegal
    have hchunk := chunk_keccakInstance kpad s hlegal.1
    refine ⟨_, exec_initKeccak_of_legal hp, keccakInstance_eq kpad kbits s, toNat_kbits hlegal.1, hchunk, ?_, rfl,
      ?_, rfl, cfgWord_keccakInstance kpad s hlegal.1⟩
    · have := chunk_of_legal_kbits hlegal.1
      simp only [List.mem_cons, List.not_mem_nil, or_false, Prod.mk.injEq] at this
      omega
    · have := keccakOutbits_ge hp
      rw [dsize_keccakInstance]
      omega
  case rejects =>
    have hp : ¬ paramsLegal kpad kbits s.argOutbits = true := by
      rw [paramsLegal_iff]
      rintro ⟨hk, hv⟩
      obtain h | ⟨h1, h2⟩ := hillegal
      · exact h hk
      · have := hv h1
        omega
    rw [exec_initKeccak_of_illegal hp]
    exact ⟨fun he => congrArg _ (raise_of_none _ _ _ he), fun he => congrArg _ (raise_of_err _ _ _ he)⟩

end Sys2Proof.Proofs
end

section
/-! SUPPORT. The pseudo-commands R110 to R114: what the accesses of each expansion do, one after the other. -/

namespace Sys2Proof.Machine

open Sys2Proof.Claims

/-! ### Runs -/

theorem stepsTo_one {s t : State} (h : step s = .next t) : StepsTo 1 s t := ⟨t, h, rfl⟩

theorem stepsTo_trans {m n : Nat} {s t u : State} (h : StepsTo m s t) (k : StepsTo n t u) :
    StepsTo (m + n) s u := by
  induction m generalizing s with
  | zero =>
    obtain rfl : t = s := h
    rwa [Nat.zero_add]
  | succ m ih =>
    obtain ⟨v, hv, h⟩ := h
    rw [Nat.succ_add]
    exact ⟨v, hv, ih h⟩

/-- A write of the legal form, by what `writeReg` answers. -/
theorem step_write {s t : State} {offset : Nat} {v : Word} {rest : List HostOp}
    (hp : s.pending = .write offset 4 v :: rest) (hm : offset % 4 = 0) (hl : offset < 0x400)
    (h : writeReg (regAt offset) v { s with pending := rest } = .next t) : step s = .next t :=
  (step_nextWrite_legal (.inl hp) hm hl).trans h

/-- A command mnemonic executes its command (R90, R106). -/
theorem step_command {s : State} {i : Instr} {rest : List HostOp} (hp : s.pending = command i :: rest)
    (hi : i.wf = true) : step s = exec i { s with pending := rest, cmd := encode i } := by
  rw [step_nextWrite_legal (.inl hp) (by decide) (by decide)]
  show writeCmd _ _ = _
  simp only [writeCmd, decode_encode i hi]

/-! ### UPDATE.AT and DIGEST.TO (R111, R112) -/

/-- The operand registers as the three writes of UPDATE.AT leave them. -/
def withSource (addr off cnt : Word) (s : State) : State :=
  { s with srcAddr := addr &&& addrMaskLo s.plat, srcOff := off, srcCnt := cnt }

theorem updateAt_stepsTo {s : State} {addr off cnt : Word} {rest : List HostOp}
    (hp : s.pending = updateAt addr off cnt ++ rest) :
    StepsTo 3 s { withSource addr off cnt s with pending := command .update :: rest } :=
  ⟨_, step_write hp rfl (by decide) rfl, _, step_write rfl rfl (by decide) rfl,
    _, step_write rfl rfl (by decide) rfl, rfl⟩

/-- The operand registers as the accesses of DIGEST.TO leave them, with what the read of `DSIZE` returned. -/
def withDestination (addr : Word) (s : State) : State :=
  { s with
    rdata := BitVec.ofNat 32 (dsize s), dstAddr := addr &&& addrMaskLo s.plat
    dstLen := BitVec.ofNat 32 (dsize s) }

theorem digestTo_stepsTo {s : State} {addr : Word} {rest : List HostOp}
    (hp : s.pending = digestTo addr ++ rest) :
    StepsTo 3 s { withDestination addr s with pending := command .digest :: rest } :=
  ⟨_, step_read hp rfl (by decide), _, step_write rfl rfl (by decide) rfl,
    _, step_nextWrite_legal (offset := 0x024) (.inr ⟨rfl, rfl⟩) rfl (by decide), rfl⟩

/-- `DSIZE` fits the register that shows it. -/
theorem toNat_dsize (s : State) : (BitVec.ofNat 32 (dsize s)).toNat = dsize s := by
  have ho := s.outbits.isLt
  have : dsize s < 2 ^ 32 := by
    unfold dsize dsizeOf
    split <;> omega
  rw [BitVec.toNat_ofNat, Nat.mod_eq_of_lt this]

/-- DIGEST with the right buffer size leaves `ERR_BUFSIZE` only where it was. -/
theorem execDigest_not_bufSize {s t : State} (hl : s.dstLen.toNat = dsize s) (h : exec .digest s = .next t)
    (ht : t.err = .bufSize) : s.err = .bufSize := by
  simp only [exec, execDigest, checkDestination, hl, decide_true, check_true] at h
  obtain ⟨hn, -, h⟩ | ⟨-, rfl⟩ | ⟨hn, -, rfl⟩ := commonGates_next h
  · obtain ⟨-, h⟩ | ⟨-, rfl⟩ := check_next h
    · obtain ⟨-, -, -, h⟩ | ⟨-, rfl⟩ | ⟨-, -, rfl⟩ := checkMemory_next h
      · obtain rfl : digestBody s = t := by simpa using h
        rw [digestBody_frame] at ht
        exact ht
      · simp [hn] at ht
      · simp [hn] at ht
    · simp [hn] at ht
  · exact ht
  · simp [hn] at ht

/-! ### The named Keccak variants (R114) -/

/-- INIT.KECCAK as the next access, with legal parameters. -/
theorem initKeccak_stepsTo {s : State} {kpad : KPad} {kbits : Nat} {rest : List HostOp}
    (hp : s.pending = command (.initKeccak kpad kbits) :: rest)
    (hl : paramsLegal kpad kbits s.argOutbits = true) :
    StepsTo 1 s (keccakInstance kpad kbits
      { s with pending := rest, cmd := encode (.initKeccak kpad kbits) }) := by
  have hk := lt_of_legal_kbits ((paramsLegal_iff _ _ _).1 hl).1
  exact stepsTo_one ((step_command hp (decide_eq_true hk.2)).trans (exec_initKeccak_of_legal hl))

/-- A row of R114: its strength is legal, its `DSIZE` is that of its output length, and its expansion sets
`ARG_OUTBITS` first exactly when the padding class takes the length from there. -/
theorem variant_row {v : KeccakVariant} {kpad : KPad} {kbits size : Nat} {outbits : Word}
    (h : (v, kpad, kbits, size) ∈
      [(KeccakVariant.keccak .n224, KPad.keccak, 224, 28), (.keccak .n256, .keccak, 256, 32),
       (.keccak .n384, .keccak, 384, 48), (.keccak .n512, .keccak, 512, 64),
       (.sha3 .n224, .sha3, 224, 28), (.sha3 .n256, .sha3, 256, 32),
       (.sha3 .n384, .sha3, 384, 48), (.sha3 .n512, .sha3, 512, 64),
       (.shake .n128 outbits, .shake, 128, outbits.toNat / 8),
       (.shake .n256 outbits, .shake, 256, outbits.toNat / 8),
       (.cshake .n128 outbits, .cshake, 128, outbits.toNat / 8),
       (.cshake .n256 outbits, .cshake, 256, outbits.toNat / 8)]) :
    kbits ∈ [128, 224, 256, 384, 512] ∧ size = (keccakOutbits kpad kbits outbits).toNat / 8 ∧
      ((variableOutput kpad = false ∧ initVariant v = [command (.initKeccak kpad kbits)]) ∨
       (variableOutput kpad = true ∧
         initVariant v = [.write 0x010 4 outbits, command (.initKeccak kpad kbits)])) := by
  simp only [List.mem_cons, List.not_mem_nil, or_false, Prod.mk.injEq] at h
  rcases h with ⟨rfl, rfl, rfl, rfl⟩ | ⟨rfl, rfl, rfl, rfl⟩ | ⟨rfl, rfl, rfl, rfl⟩ | ⟨rfl, rfl, rfl, rfl⟩ |
    ⟨rfl, rfl, rfl, rfl⟩ | ⟨rfl, rfl, rfl, rfl⟩ | ⟨rfl, rfl, rfl, rfl⟩ | ⟨rfl, rfl, rfl, rfl⟩ |
    ⟨rfl, rfl, rfl, rfl⟩ | ⟨rfl, rfl, rfl, rfl⟩ | ⟨rfl, rfl, rfl, rfl⟩ | ⟨rfl, rfl, rfl, rfl⟩ <;>
  simp [keccakOutbits, variableOutput, initVariant, FixedSize.bits, Strength.bits]

/-- The expansion of a row runs to its INIT.KECCAK, with the row's output length where the class reads one. -/
theorem variant_reaches_initKeccak {s : State} {v : KeccakVariant} {kpad : KPad} {kbits : Nat} {outbits : Word}
    {rest : List HostOp}
    (hv : (variableOutput kpad = false ∧ initVariant v = [command (.initKeccak kpad kbits)]) ∨
       (variableOutput kpad = true ∧
         initVariant v = [.write 0x010 4 outbits, command (.initKeccak kpad kbits)]))
    (hp : s.pending = initVariant v ++ rest) :
    ∃ m u, m + 1 = (initVariant v).length ∧ StepsTo m s u ∧
      u.pending = command (.initKeccak kpad kbits) :: rest ∧
      paramsLegal kpad kbits u.argOutbits = paramsLegal kpad kbits outbits ∧
      keccakOutbits kpad kbits u.argOutbits = keccakOutbits kpad kbits outbits := by
  obtain ⟨hfixed, hv⟩ | ⟨-, hv⟩ := hv <;> rw [hv] at hp ⊢
  · exact ⟨0, s, rfl, rfl, hp, by simp [paramsLegal, hfixed], by simp [keccakOutbits, hfixed]⟩
  · exact ⟨1, _, rfl, stepsTo_one (step_write hp rfl (by decide) rfl), rfl, rfl, rfl⟩

end Sys2Proof.Machine

namespace Sys2Proof.Proofs

open Sys2Proof.Machine Sys2Proof.Claims

/-- Settles O32: three accesses set the registers, and the fourth is the command's own. -/
theorem pseudoCommandsSetOperandsAndRun : Obligations.PseudoCommandsSetOperandsAndRun := by
  intro s addr off cnt rest _
  rw [← and_addrMaskLo]
  refine ⟨fun hp => ?update, fun hp => ?all, fun hp => ?digest⟩
  case update => exact ⟨_, updateAt_stepsTo hp, step_command rfl rfl⟩
  case all => exact ⟨_, updateAt_stepsTo hp, step_command rfl rfl⟩
  case digest =>
    have hd := toNat_dsize s
    have hrun := step_command (s := { withDestination addr s with pending := command .digest :: rest })
      (i := .digest) rfl rfl
    refine ⟨_, _, digestTo_stepsTo hp, hd, hrun, fun u hu he => ?_⟩
    exact execDigest_not_bufSize (s := { withDestination addr s with pending := rest, cmd := encode .digest }) hd
      (hrun.symm.trans hu) he

/-- Settles O34: a row fixes its expansion, and the expansion ends in an INIT.KECCAK with legal parameters. -/
theorem namedVariantsCreateTheirInstances : Obligations.NamedVariantsCreateTheirInstances := by
  intro s v kpad kbits size outbits rest hrow hp hout
  obtain ⟨hk, rfl, hv⟩ := variant_row hrow
  obtain ⟨m, u, hm, hsteps, hu, hlegal, houtbits⟩ := variant_reaches_initKeccak hv hp
  have hl : paramsLegal kpad kbits u.argOutbits = true := hlegal ▸ (paramsLegal_iff _ _ _).2 ⟨hk, hout⟩
  refine ⟨_, hm ▸ stepsTo_trans hsteps (initKeccak_stepsTo hu hl), rfl, rfl, rfl, rfl, toNat_kbits hk, ?dsize, ?h,
    ?chunk⟩
  case dsize => rw [dsize_keccakInstance, houtbits]
  case h => exact withInitial_keccak _
  case chunk =>
    rw [chunk_keccakInstance kpad _ hk]
    exact chunk_of_legal_kbits hk

end Sys2Proof.Proofs
end

section
/-! SUPPORT. The engine on a stream of bytes: the reference's block function is the model's, the buffer holds what
is left of the bytes pushed so far, and the padding of the MD family completes the blocks. -/

namespace Sys2Proof.Machine

open Sys2Proof.Claims

/-! ### The block function folded over whole blocks -/

theorem spongeAbsorb_eq (n : Nat) (h : Vector Word 50) (block : List Byte) :
    spongeAbsorb n h block = keccakF (xorBlock n h block) :=
  congrArg keccakF (words_ext _ _ fun k hk => by
    rw [xorBlock_getElem, Vector.getElem_ofFn]
    rfl)

/-- The reference's block function is `ABSORB()` (R150, R280). -/
theorem blockFunction_eq (a : Alg) (n : Nat) (h : Vector Word 50) (block : List Byte) :
    blockFunction a n h block = absorbBlock a n h block := by
  unfold blockFunction
  split
  · subst a
    exact spongeAbsorb_eq n h block
  · rfl

@[simp] theorem absorbAll_zero (a : Alg) (n : Nat) (h : Vector Word 50) (data : List Byte) :
    absorbAll a n 0 h data = h := rfl

theorem absorbAll_succ (a : Alg) (n q : Nat) (h : Vector Word 50) (data : List Byte) :
    absorbAll a n (q + 1) h data =
      absorbBlock a n (absorbAll a n q h data) ((data.drop (q * n)).take n) := by
  rw [absorbAll, List.range_succ, List.foldl_append, List.foldl_cons, List.foldl_nil, blockFunction_eq]
  rfl

theorem absorbAll_add (a : Alg) (n p q : Nat) (h : Vector Word 50) (data : List Byte) :
    absorbAll a n (p + q) h data = absorbAll a n q (absorbAll a n p h data) (data.drop (p * n)) := by
  induction q with
  | zero => rw [absorbAll_zero, Nat.add_zero]
  | succ q ih => rw [← Nat.add_assoc, absorbAll_succ, absorbAll_succ, ih, List.drop_drop, Nat.add_mul]

/-- Bytes past the blocks absorbed do not matter. -/
theorem absorbAll_append (a : Alg) (n q : Nat) (h : Vector Word 50) (xs ys : List Byte)
    (hq : q * n ≤ xs.length) : absorbAll a n q h (xs ++ ys) = absorbAll a n q h xs := by
  induction q with
  | zero => rw [absorbAll_zero, absorbAll_zero]
  | succ q ih =>
    rw [Nat.succ_mul] at hq
    rw [absorbAll_succ, absorbAll_succ, ih (by omega), List.drop_append_of_le_length (by omega),
      List.take_append_of_le_length (by rw [List.length_drop]; omega)]

/-- The live words after any blocks depend on the live words before them only (R27). -/
theorem absorbAll_live (a : Alg) (n q : Nat) (g h : Vector Word 50) (data : List Byte)
    (e : ∀ i (hi : i < 50), i < liveCount a → g[i] = h[i]) (i : Nat) (hi : i < 50) (hl : i < liveCount a) :
    (absorbAll a n q g data)[i] = (absorbAll a n q h data)[i] := by
  induction q generalizing i with
  | zero => exact e i hi hl
  | succ q ih =>
    rw [absorbAll_succ, absorbAll_succ]
    exact absorbBlock_live a n _ _ _ ih i hi hl

theorem absorbAll_one {a : Alg} {n : Nat} (h : Vector Word 50) {block : List Byte} (hb : block.length = n) :
    absorbAll a n 1 h block = absorbBlock a n h block := by
  rw [absorbAll_succ, Nat.zero_mul, List.drop_zero, List.take_of_length_le hb.le, absorbAll_zero]

theorem absorbAll_two {a : Alg} {n : Nat} (h : Vector Word 50) {b c : List Byte} (hb : b.length = n)
    (hc : c.length = n) : absorbAll a n 2 h (b ++ c) = absorbBlock a n (absorbBlock a n h b) c := by
  rw [absorbAll_add a n 1 1, absorbAll_append _ _ _ _ _ _ (by omega), absorbAll_one h hb, Nat.one_mul, ← hb,
    List.drop_left, hb, absorbAll_one _ hc]

/-! ### The buffer (R146, R149) -/

/-- The bytes `data` have gone into an instance whose words were `h0`: every full block of them is absorbed, and the
rest is in the buffer. -/
structure Buffered (h0 : Vector Word 50) (data : List Byte) (s : State) : Prop where
  absorbed : s.h = absorbAll s.alg (chunk s) (data.length / chunk s) h0 data
  live : liveBytes s = data.drop (data.length / chunk s * chunk s)
  buflen : s.buflen.toNat = data.length % chunk s

theorem liveBytes_eq_bufBlock (s : State) : liveBytes s = bufBlock s.buf s.buflen.toNat := rfl

/-- An instance with part of a block in its buffer. -/
theorem buffered_start {s : State} (h : s.buflen.toNat < chunk s) (hn : chunk s ≤ 168) :
    Buffered s.h (liveBytes s) s := by
  have hl : (liveBytes s).length = s.buflen.toNat := length_bufBlock _ _ (by omega)
  constructor
  · rw [hl, Nat.div_eq_of_lt h]; rfl
  · rw [hl, Nat.div_eq_of_lt h, Nat.zero_mul, List.drop_zero]
  · rw [hl, Nat.mod_eq_of_lt h]

/-- One more byte: it joins the buffer, or fills it and the block is absorbed. -/
theorem Buffered.pushByte {h0 : Vector Word 50} {data : List Byte} {s : State} (hb : Buffered h0 data s)
    (h0n : 0 < chunk s) (hn : chunk s ≤ 168) (b : Byte) : Buffered h0 (data ++ [b]) (pushByte s b) := by
  obtain ⟨habs, hlive, hlen⟩ := hb
  have hdm := Nat.div_add_mod' data.length (chunk s)
  have hmod := Nat.mod_lt data.length h0n
  have hlast : (data ++ [b]).length = data.length / chunk s * chunk s + (s.buflen.toNat + 1) := by
    rw [List.length_append, List.length_singleton]
    omega
  have hdrop : (data ++ [b]).drop (data.length / chunk s * chunk s) = liveBytes s ++ [b] := by
    rw [hlive, List.drop_append_of_le_length (by omega)]
  by_cases hfull : s.buflen.toNat + 1 = chunk s
  case pos =>
    obtain ⟨hh, hl⟩ := pushByte_full s b hfull hn
    have hlen' : (data ++ [b]).length = (data.length / chunk s + 1) * chunk s := by
      rw [hlast, hfull, Nat.succ_mul]
    have hzero : (Machine.pushByte s b).buflen.toNat = 0 := by rw [hl]; rfl
    constructor
    · rw [hh, pushByte_chunk, pushByte_alg, hlen', Nat.mul_div_cancel _ h0n, absorbAll_succ,
        absorbAll_append _ _ _ _ _ _ (by omega), hdrop, ← habs, List.take_of_length_le]
      · rfl
      · rw [List.length_append, liveBytes_eq_bufBlock, length_bufBlock _ _ (by omega), List.length_singleton]
        omega
    · rw [pushByte_chunk, hlen', Nat.mul_div_cancel _ h0n, ← hlen', List.drop_length, liveBytes, hzero]
      rfl
    · rw [hzero, pushByte_chunk, hlen', Nat.mul_mod_left]
  case neg =>
    obtain ⟨hh, hl, hblock⟩ := pushByte_part s b (by omega) hn
    have hdiv : (data ++ [b]).length / chunk s = data.length / chunk s := by
      rw [hlast, Nat.mul_comm, Nat.mul_add_div h0n,
        Nat.div_eq_of_lt (by omega : s.buflen.toNat + 1 < chunk s), Nat.add_zero]
    constructor
    · rw [hh, pushByte_chunk, pushByte_alg, hdiv, absorbAll_append _ _ _ _ _ _ (by omega), ← habs]
    · rw [pushByte_chunk, hdiv, hdrop, liveBytes_eq_bufBlock, hl, hblock]
      rfl
    · rw [hl, pushByte_chunk, hlast, Nat.mul_comm, Nat.mul_add_mod, Nat.mod_eq_of_lt (by omega)]

theorem Buffered.pushBytes {h0 : Vector Word 50} {data : List Byte} {s : State} (hb : Buffered h0 data s)
    (h0n : 0 < chunk s) (hn : chunk s ≤ 168) (bs : List Byte) :
    Buffered h0 (data ++ bs) (pushBytes s bs) := by
  induction bs generalizing s data with
  | nil => simpa using hb
  | cons b bs ih =>
    have := ih (hb.pushByte h0n hn b) (by simpa using h0n) (by simpa using hn)
    simpa using this

/-- UPDATE takes its source bytes into the stream (R146). -/
theorem Buffered.updateBody {h0 : Vector Word 50} {data : List Byte} {s : State} (hb : Buffered h0 data s)
    (h0n : 0 < chunk s) (hn : chunk s ≤ 168) : Buffered h0 (data ++ sourceBytes s) (updateBody s) :=
  have h := hb.pushBytes h0n hn (sourceBytes s)
  ⟨h.absorbed, h.live, h.buflen⟩

/-! ### The padding of MD5, SHA-1 and SHA-256 (R162) -/

theorem lengthField_eq (a : Alg) (total : Dword) :
    lengthField a total = if a = .md5 then st64le (8#64 * total) else st64be (8#64 * total) := by
  cases a <;> rfl

/-- The live bytes, the end mark, zeros. -/
theorem bufBlock_markEnd {s : State} {n : Nat} (hr : s.buflen.toNat < n) (hn : n ≤ 64) :
    bufBlock (markEnd s).buf n = liveBytes s ++ 0x80#8 :: List.replicate (n - 1 - s.buflen.toNat) 0 := by
  have hl : (liveBytes s).length = s.buflen.toNat := length_bufBlock _ _ (by omega)
  refine byteList_ext _ _ ?_ fun k hk => ?_
  · rw [length_bufBlock _ _ (by omega), List.length_append, List.length_cons, List.length_replicate, hl]
    omega
  · rw [length_bufBlock _ _ (by omega)] at hk
    rw [byteAt_bufBlock _ _ _ hk (by omega), markEnd, getElem_bufPut, getElem_bufFill]
    rcases lt_trichotomy k s.buflen.toNat with h | h | h
    · rw [if_neg (by omega), if_neg (by omega), byteAt_append_left _ _ _ (by omega), liveBytes_eq_bufBlock,
        byteAt_bufBlock _ _ _ h (by omega)]
    · rw [if_pos ⟨by omega, by simp; omega⟩, byteAt_append_right _ _ _ (by omega), hl, h, Nat.sub_self]
      rfl
    · rw [if_neg (by simp; omega), if_pos (by omega), byteAt_append_right _ _ _ (by omega), hl]
      obtain ⟨j, hj⟩ : ∃ j, k - s.buflen.toNat = j + 1 := ⟨k - s.buflen.toNat - 1, by omega⟩
      rw [hj, byteAt_cons_succ, byteAt_eq_getElem _ _ (by rw [List.length_replicate]; omega),
        List.getElem_replicate]

theorem bufBlock_zeroBlock (s : State) {n : Nat} (hn : n ≤ 64) :
    bufBlock (zeroBlock s).buf n = List.replicate n 0 := by
  refine byteList_ext _ _ (by rw [length_bufBlock _ _ (by omega), List.length_replicate]) fun k hk => ?_
  rw [length_bufBlock _ _ (by omega)] at hk
  rw [byteAt_bufBlock _ _ _ hk (by omega), zeroBlock, getElem_bufFill, if_pos (by omega),
    byteAt_eq_getElem _ _ (by rwa [List.length_replicate]), List.getElem_replicate]

/-- The length field ends the block. -/
theorem bufBlock_putLength (s : State) :
    bufBlock (putLength s).buf 64 = bufBlock s.buf 56 ++ lengthField s.alg s.total := by
  refine byteList_ext _ _ (by simp) fun k hk => ?_
  rw [length_bufBlock _ _ (by omega)] at hk
  rw [byteAt_bufBlock _ _ _ hk (by omega), putLength, getElem_bufPut, length_lengthField]
  by_cases h : k < 56
  · rw [if_neg (by omega), byteAt_append_left _ _ _ (by rwa [length_bufBlock _ _ (by omega)]),
      byteAt_bufBlock _ _ _ h (by omega)]
  · rw [if_pos (by omega), byteAt_append_right _ _ _ (by rw [length_bufBlock _ _ (by omega)]; omega),
      length_bufBlock _ _ (by omega)]

theorem length_mdPadding (a : Alg) {r : Nat} (total : Dword) (hr : r < 64) :
    r + (mdPadding a r total).length = if r ≤ 55 then 64 else 128 := by
  rw [mdPadding, ← lengthField_eq, List.length_append, List.length_cons, List.length_replicate,
    length_lengthField]
  split <;> omega

/-- `PAD_MD()` absorbs the live bytes and the padding, one block or two. -/
theorem padMd_h {s : State} (hc : chunk s = 64) (hr : s.buflen.toNat < 64) :
    (padMd s).h = absorbAll s.alg 64 (if s.buflen.toNat ≤ 55 then 1 else 2) s.h
      (liveBytes s ++ mdPadding s.alg s.buflen.toNat s.total) := by
  have hl : (liveBytes s).length = s.buflen.toNat := length_bufBlock _ _ (by omega)
  have hpad := length_mdPadding s.alg s.total hr
  rw [mdPadding, ← lengthField_eq] at hpad ⊢
  by_cases h : s.buflen.toNat ≤ 55
  case pos =>
    have hblock : bufBlock (putLength (markEnd s)).buf 64 =
        liveBytes s ++ (0x80#8 :: List.replicate ((119 - s.buflen.toNat) % 64) 0 ++
          lengthField s.alg s.total) := by
      rw [bufBlock_putLength, bufBlock_markEnd (by omega) (by omega),
        show (119 - s.buflen.toNat) % 64 = 56 - 1 - s.buflen.toNat by omega, List.append_assoc]
      rfl
    rw [if_pos h] at hpad ⊢
    rw [padMd, if_neg (by omega), absorbAll_one _ (by rw [List.length_append, hl, hpad]), ← hblock, ← hc]
    rfl
  case neg =>
    have hfirst := bufBlock_markEnd (s := s) (n := 64) hr le_rfl
    have hlast : bufBlock (putLength (zeroBlock (absorb (markEnd s)))).buf 64 =
        List.replicate 56 0 ++ lengthField s.alg s.total := by
      rw [bufBlock_putLength, bufBlock_zeroBlock _ (by omega)]
      rfl
    have hsplit : liveBytes s ++ (0x80#8 :: List.replicate ((119 - s.buflen.toNat) % 64) 0 ++
          lengthField s.alg s.total) =
        bufBlock (markEnd s).buf 64 ++ bufBlock (putLength (zeroBlock (absorb (markEnd s)))).buf 64 := by
      rw [hfirst, hlast, show (119 - s.buflen.toNat) % 64 = (64 - 1 - s.buflen.toNat) + 56 by omega,
        List.replicate_add]
      simp
    rw [padMd, if_pos (by omega), if_neg h, hsplit,
      absorbAll_two _ (length_bufBlock _ _ (by omega)) (length_bufBlock _ _ (by omega)), ← hc]
    rfl

end Sys2Proof.Machine
end

section
/-! SUPPORT. From INIT to the digest of MD5, SHA-1 and SHA-256: what DIGEST puts in memory after a stream of bytes,
and the one-shot form HASH.x (R113). -/

namespace Sys2Proof.Machine

open Sys2Proof.Claims

/-! ### The digest's bytes (R166) -/

/-- MD5, SHA-1 or SHA-256. -/
def IsMd (a : Alg) : Prop := a ≠ .none ∧ a ≠ .keccak

theorem isMd_cases {a : Alg} (h : IsMd a) : a = .md5 ∨ a = .sha1 ∨ a = .sha256 := by
  cases a <;> simp_all [IsMd]

/-- Byte `k` of words laid out four bytes each. -/
theorem byteAt_flatMap_words (f : Nat → List Byte) (hf : ∀ i, (f i).length = 4) (m k : Nat) (hk : k < 4 * m) :
    byteAt ((List.range m).flatMap f) k = byteAt (f (k / 4)) (k % 4) := by
  induction m with
  | zero => omega
  | succ m ih =>
    have hlen : ((List.range m).flatMap f).length = 4 * m := by
      simp [List.length_flatMap, hf, Nat.mul_comm]
    rw [List.range_succ, List.flatMap_append, List.flatMap_singleton]
    by_cases h : k < 4 * m
    · rw [byteAt_append_left _ _ _ (by omega), ih h]
    · rw [byteAt_append_right _ _ _ (by omega), hlen, show k / 4 = m by omega, show k % 4 = k - 4 * m by omega]

theorem byteAt_extractMd {a : Alg} (ha : IsMd a) (h : Vector Word 50) {k : Nat} (hk : k < 4 * liveCount a) :
    byteAt (extractMd a h) k = mdDigestByte a h k := by
  have hmod : k % 4 < 4 := Nat.mod_lt _ (by decide)
  obtain rfl | rfl | rfl := isMd_cases ha
  · rw [extractMd, byteAt_flatMap_words _ (fun _ => rfl) 4 k hk, byteAt_st32le _ _ hmod, mdDigestByte, if_pos rfl,
      shiftRight_setWidth]
  · rw [extractMd, byteAt_flatMap_words _ (fun _ => rfl) 5 k hk, byteAt_st32be _ _ hmod, mdDigestByte,
      if_neg (by decide), shiftRight_setWidth]
  · rw [extractMd, byteAt_flatMap_words _ (fun _ => rfl) 8 k hk, byteAt_st32be _ _ hmod, mdDigestByte,
      if_neg (by decide), shiftRight_setWidth]

/-- The digest shows live words only. -/
theorem mdDigestByte_congr (a : Alg) {g h : Vector Word 50}
    (e : ∀ i (hi : i < 50), i < liveCount a → g[i] = h[i]) {k : Nat} (hk : k < 4 * liveCount a) :
    mdDigestByte a g k = mdDigestByte a h k := by
  have hl := liveCount_le a
  have : wordAt g (k / 4) = wordAt h (k / 4) := by
    rw [wordAt_eq _ _ (by omega), wordAt_eq _ _ (by omega), e _ (by omega) (by omega)]
  rw [mdDigestByte, mdDigestByte, this]

theorem dsizeOf_md {a : Alg} (ha : IsMd a) (o : Word) : dsizeOf a o = 4 * liveCount a := by
  obtain rfl | rfl | rfl := isMd_cases ha <;> rfl

/-! ### DIGEST -/

theorem exec_digest_of_ok {s : State} (h : DigestOk s) : exec .digest s = .next (digestBody s) := by
  obtain ⟨⟨he, ha⟩, hf, hl, hr, hok⟩ := h
  simp only [exec, execDigest, checkDestination, commonGates_of_running he ha, hf, hl, Bool.not_false, decide_true,
    check_true, checkMemory_of_ok hr hok]

theorem destinationOk_congr {s t : State} {n : Nat} (hb : dstBase t = dstBase s) (hp : t.plat = s.plat)
    (h : DestinationOk s n) : DestinationOk t n := by
  rwa [DestinationOk, hb, hp]

/-- The output bytes are the digest; every other byte of memory is as before (R167). -/
theorem digestBody_read {s : State} (hw : s.mem.wf = true) (ha : s.alg ≠ .none) (b : Nat) :
    (digestBody s).mem.read b =
      if dstBase s ≤ b ∧ b < dstBase s + dsize s then byteAt (digestBytes (padMessage s)) (b - dstBase s)
      else s.mem.read b := by
  have hlen : (digestBytes (padMessage s)).length = dsize s := by
    rw [length_digestBytes _ (by rwa [padMessage_alg]), padMessage_dsize]
  rw [digestBody_frame]
  exact (Memory.read_writeBytes _ _ _ _ hw).trans (by rw [hlen])

/-- DIGEST of an MD-family instance ends in the instance's reset (R171). -/
theorem digestBody_of_md {s : State} (ha : IsMd s.alg) :
    digestBody s = instanceReset (storeOutput (dstBase s) (digestBytes (padMessage s)) (padMessage s)) := by
  obtain ⟨hk, -, -⟩ | ⟨-, h⟩ :=
    finish_cases (storeOutput (dstBase s) (digestBytes (padMessage s)) (padMessage s))
  · exact absurd ((padMessage_alg s).symm.trans hk) ha.2
  · exact h

/-- What it leaves is a fresh instance. -/
theorem digestBody_fresh {s : State} (ha : IsMd s.alg) :
    (digestBody s).total = 0 ∧
      ∀ i (hi : i < 50), i < liveCount s.alg → (digestBody s).h[i] = initialWord s.alg i := by
  rw [digestBody_of_md ha]
  refine ⟨rfl, fun i hi hl => ?_⟩
  simp only [instanceReset_h, storeOutput_alg, padMessage_alg, getElem_withInitial, if_pos hl]

theorem digestBytes_of_md {s : State} (ha : IsMd s.alg) :
    digestBytes (padMessage s) = extractMd s.alg (padMd s).h := by
  rw [digestBytes, padMessage_alg, if_neg ha.2, padMessage, if_neg ha.2]

/-- Padding a stream: the blocks absorbed before and those of the padding are the blocks of the padded message. -/
theorem Buffered.padMd_h {h0 : Vector Word 50} {data : List Byte} {s : State} (hb : Buffered h0 data s)
    (hc : chunk s = 64) :
    (padMd s).h = absorbAll s.alg 64 ((data ++ mdPadding s.alg (data.length % 64) s.total).length / 64) h0
      (data ++ mdPadding s.alg (data.length % 64) s.total) := by
  obtain ⟨habs, hlive, hlen⟩ := hb
  rw [hc] at habs hlive hlen
  have hr : data.length % 64 < 64 := Nat.mod_lt _ (by decide)
  have hpad := length_mdPadding s.alg s.total hr
  have hblocks : (data ++ mdPadding s.alg (data.length % 64) s.total).length / 64 =
      data.length / 64 + if data.length % 64 ≤ 55 then 1 else 2 := by
    rw [List.length_append]
    split_ifs at hpad ⊢ <;> omega
  rw [Machine.padMd_h hc (hlen ▸ hr), hlen, hblocks, absorbAll_add,
    absorbAll_append _ _ (data.length / 64) _ _ _ (by omega), ← habs, List.drop_append_of_le_length (by omega), ← hlive]

/-- After INIT and a stream of bytes, DIGEST writes the hash of the bytes. -/
theorem digestBody_hash {s : State} {h0 : Vector Word 50} {data : List Byte} (hb : Buffered h0 data s)
    (ha : IsMd s.alg) (ht : s.total = BitVec.ofNat 64 data.length) (hw : s.mem.wf = true)
    (h0v : ∀ i (hi : i < 50), i < liveCount s.alg → h0[i] = initialWord s.alg i) {k : Nat} (hk : k < dsize s) :
    (digestBody s).mem.read (dstBase s + k) = mdHashByte s.alg data k := by
  have hk' : k < 4 * liveCount s.alg := by rwa [dsize, dsizeOf_md ha] at hk
  have hinit : ∀ i (hi : i < 50), i < liveCount s.alg → h0[i] = (initialVector s.alg)[i] := fun i hi hl => by
    rw [h0v i hi hl, initialVector, Vector.getElem_ofFn, if_pos hl]
  rw [digestBody_read hw ha.1, if_pos (by omega), Nat.add_sub_cancel_left, digestBytes_of_md ha,
    byteAt_extractMd ha _ hk', hb.padMd_h (chunk_md s ha.1 ha.2), ht]
  exact mdDigestByte_congr _ (absorbAll_live _ _ _ _ _ _ hinit) hk'

/-! ### UPDATE -/

theorem exec_update_of_ok {s : State} (h : Running s) (hf : s.fin = false) (hs : SourceOk s s.srcCnt.toNat) :
    exec .update s = .next (updateBody s) := by
  obtain ⟨he, ha⟩ := h
  simp only [exec, execUpdate, checkSource, commonGates_of_running he ha, hf, Bool.not_false, check_true,
    checkMemory_of_ok hs.1 hs.2]

/-! ### The runs of the expansions -/

/-- The state in which the UPDATE of UPDATE.AT runs. -/
def atUpdate (addr off cnt : Word) (rest : List HostOp) (s : State) : State :=
  { withSource addr off cnt s with pending := rest, cmd := encode .update }

/-- The state in which the DIGEST of DIGEST.TO runs. -/
def atDigest (addr : Word) (rest : List HostOp) (s : State) : State :=
  { withDestination addr s with pending := rest, cmd := encode .digest }

theorem updateAt_run {s : State} {addr off cnt : Word} {rest : List HostOp}
    (hp : s.pending = updateAt addr off cnt ++ rest) (hr : Running s) (hf : s.fin = false)
    (hs : SourceOk (atUpdate addr off cnt rest s) cnt.toNat) :
    StepsTo 4 s (updateBody (atUpdate addr off cnt rest s)) :=
  stepsTo_trans (updateAt_stepsTo hp)
    (stepsTo_one ((step_command rfl rfl).trans (exec_update_of_ok (s := atUpdate addr off cnt rest s) hr hf hs)))

theorem digestTo_run {s : State} {addr : Word} {rest : List HostOp}
    (hp : s.pending = digestTo addr ++ rest) (hr : Running s) (hf : s.fin = false)
    (hd : DestinationOk (atDigest addr rest s) (dsize s)) :
    StepsTo 4 s (digestBody (atDigest addr rest s)) :=
  stepsTo_trans (digestTo_stepsTo hp)
    (stepsTo_one ((step_command rfl rfl).trans
      (exec_digest_of_ok (s := atDigest addr rest s) ⟨hr, hf, toNat_dsize s, hd⟩)))

/-! ### Fields after UPDATE and DIGEST -/

section
variable (s : State)

@[simp] theorem updateBody_alg : (updateBody s).alg = s.alg := by rw [updateBody_frame]
@[simp] theorem updateBody_fin : (updateBody s).fin = s.fin := by rw [updateBody_frame]
@[simp] theorem updateBody_err : (updateBody s).err = s.err := by rw [updateBody_frame]
@[simp] theorem updateBody_total : (updateBody s).total = s.total + s.srcCnt.setWidth 64 := by
  rw [updateBody_frame]
@[simp] theorem updateBody_dstAddrHi : (updateBody s).dstAddrHi = s.dstAddrHi := by rw [updateBody_frame]
@[simp] theorem updateBody_mem : (updateBody s).mem = s.mem := by rw [updateBody_frame]
@[simp] theorem updateBody_plat : (updateBody s).plat = s.plat := by rw [updateBody_frame]
@[simp] theorem updateBody_pending : (updateBody s).pending = s.pending := by rw [updateBody_frame]

@[simp] theorem digestBody_err : (digestBody s).err = s.err := by rw [digestBody_frame]
@[simp] theorem digestBody_alg : (digestBody s).alg = s.alg := by rw [digestBody_frame]
@[simp] theorem digestBody_buflen : (digestBody s).buflen = 0 := by rw [digestBody_frame]
@[simp] theorem digestBody_pending : (digestBody s).pending = s.pending := by rw [digestBody_frame]

end

/-! ### HASH.x (R113) -/

/-- What HASH.x starts with: its algorithm, its output size, and its INIT. -/
theorem oneShot_row {x : OneShot} {a : Alg} {n : Nat}
    (h : (x, a, n) ∈ [(OneShot.md5, Alg.md5, 16), (.sha1, .sha1, 20), (.sha256, .sha256, 32)]) :
    IsMd a ∧ (∀ o, dsizeOf a o = n) ∧ (oneShotInit x).wf = true ∧
      ∀ s, exec (oneShotInit x) s = .next (createInstance a 0 .keccak 0 s) := by
  simp only [List.mem_cons, List.not_mem_nil, or_false, Prod.mk.injEq] at h
  rcases h with ⟨rfl, rfl, rfl⟩ | ⟨rfl, rfl, rfl⟩ | ⟨rfl, rfl, rfl⟩ <;>
  exact ⟨by simp [IsMd], fun _ => rfl, rfl, fun _ => rfl⟩

/-- The state after the INIT of HASH.x. -/
def hashCreated (x : OneShot) (a : Alg) (rest : List HostOp) (s : State) : State :=
  createInstance a 0 .keccak 0 { s with pending := rest, cmd := encode (oneShotInit x) }

/-- The state in which the UPDATE of HASH.x runs. -/
def hashUpdate (x : OneShot) (a : Alg) (addr len out : Word) (rest : List HostOp) (s : State) : State :=
  atUpdate addr 0 len (digestTo out ++ rest) (hashCreated x a (updateAll addr len ++ (digestTo out ++ rest)) s)

/-- The state in which the DIGEST of HASH.x runs. -/
def hashDigest (x : OneShot) (a : Alg) (addr len out : Word) (rest : List HostOp) (s : State) : State :=
  atDigest out rest (updateBody (hashUpdate x a addr len out rest s))

section
variable {x : OneShot} {a : Alg} {addr len out : Word} {rest : List HostOp} {s : State}

theorem hashDigest_alg : (hashDigest x a addr len out rest s).alg = a :=
  updateBody_alg _

theorem hashDigest_mem : (hashDigest x a addr len out rest s).mem = s.mem :=
  updateBody_mem _

theorem hashDigest_plat : (hashDigest x a addr len out rest s).plat = s.plat :=
  updateBody_plat _

theorem hashDigest_dsize {n : Nat} (hn : ∀ o, dsizeOf a o = n) :
    dsize (hashDigest x a addr len out rest s) = n := by
  rw [dsize, hashDigest_alg, hn]

theorem hashDigest_dstBase :
    dstBase (hashDigest x a addr len out rest s) =
      dstBase { s with dstAddr := out &&& addrMaskLo s.plat } := by
  simp only [dstBase, hashDigest, atDigest, withDestination, updateBody_plat, updateBody_dstAddrHi]
  rfl

/-- The nine accesses of HASH.x complete, whatever state they start from. -/
theorem hashOneShot_run {n : Nat} (hp : s.pending = hashOneShot x addr len out ++ rest)
    (ha : IsMd a) (hn : ∀ o, dsizeOf a o = n) (hwf : (oneShotInit x).wf = true)
    (hinit : ∀ s, exec (oneShotInit x) s = .next (createInstance a 0 .keccak 0 s))
    (hs : SourceOk (hashUpdate x a addr len out rest s) len.toNat)
    (hd : DestinationOk (hashDigest x a addr len out rest s) n) :
    StepsTo 9 s (digestBody (hashDigest x a addr len out rest s)) := by
  have hcreate : StepsTo 1 s (hashCreated x a (updateAll addr len ++ (digestTo out ++ rest)) s) :=
    stepsTo_one ((step_command hp hwf).trans (hinit _))
  have hupdate : StepsTo 4 (hashCreated x a (updateAll addr len ++ (digestTo out ++ rest)) s)
      (updateBody (hashUpdate x a addr len out rest s)) := updateAt_run rfl ⟨rfl, ha.1⟩ rfl hs
  refine stepsTo_trans (stepsTo_trans hcreate hupdate) (digestTo_run ?_ ⟨?_, ?_⟩ ?_ ?_)
  · exact updateBody_pending _
  · exact updateBody_err _
  · rw [updateBody_alg]; exact ha.1
  · exact updateBody_fin _
  · have hsize : dsize (updateBody (hashUpdate x a addr len out rest s)) = n := hashDigest_dsize hn
    rw [hsize]
    exact hd

/-- The instance that the DIGEST of HASH.x finds has taken in the message. -/
theorem hashDigest_buffered (ha : IsMd a) :
    Buffered (withInitial a (freshWords s.draws)) (sourceBytes (hashUpdate x a addr len out rest s))
      (hashDigest x a addr len out rest s) := by
  have hc : chunk (hashUpdate x a addr len out rest s) = 64 := chunk_md _ ha.1 ha.2
  have hstart : Buffered (withInitial a (freshWords s.draws)) [] (hashUpdate x a addr len out rest s) :=
    buffered_start (s := hashUpdate x a addr len out rest s) (by rw [hc]; exact Nat.succ_pos 63) (by omega)
  have h := hstart.updateBody (by omega) (by omega)
  exact ⟨h.absorbed, h.live, h.buflen⟩

theorem hashDigest_total :
    (hashDigest x a addr len out rest s).total =
      BitVec.ofNat 64 (sourceBytes (hashUpdate x a addr len out rest s)).length := by
  have hlen : (sourceBytes (hashUpdate x a addr len out rest s)).length = len.toNat := by
    simp [sourceBytes]; rfl
  rw [hlen]
  refine (updateBody_total _).trans ?_
  show 0#64 + len.setWidth 64 = _
  rw [BitVec.zero_add, BitVec.ofNat_toNat]

end

end Sys2Proof.Machine

namespace Sys2Proof.Proofs

open Sys2Proof.Machine Sys2Proof.Claims

/-- Settles O33: the nine accesses run, the instance that DIGEST finds has taken in the message from the initial
vector, and DIGEST's own lemmas say what it writes and leaves. -/
theorem oneShotHashIsTheHashOfTheMessage : Obligations.OneShotHashIsTheHashOfTheMessage := by
  intro s x a n addr len out rest hrow hp _ hw
  rw [← and_addrMaskLo, ← and_addrMaskLo]
  intro m hsrc hdst
  obtain ⟨ha, hn, hwf, hinit⟩ := oneShot_row hrow
  set v := hashDigest x a addr len out rest s
  have halg : v.alg = a := hashDigest_alg
  have hmem : v.mem = s.mem := hashDigest_mem
  have hsize : dsize v = n := hashDigest_dsize hn
  have hbase : dstBase v = dstBase m := hashDigest_dstBase
  have hplat : v.plat = s.plat := hashDigest_plat
  have hmd : IsMd v.alg := halg ▸ ha
  have hrun := hashOneShot_run hp ha hn hwf hinit hsrc (destinationOk_congr hbase hplat hdst)
  obtain ⟨htotal, hfresh⟩ := digestBody_fresh hmd
  refine ⟨_, hrun, ?pending, fun k hk => ?hash, fun b hb => ?frame, ?err, ?alg, ?buflen, htotal, fun j hj hl => ?h⟩
  case pending => exact digestBody_pending v
  case hash =>
    have hinitial : ∀ i (hi : i < 50), i < liveCount v.alg →
        (withInitial a (freshWords s.draws))[i] = initialWord v.alg i := fun i hi hl => by
      rw [getElem_withInitial, ← halg, if_pos hl]
    have := digestBody_hash (hashDigest_buffered ha) hmd hashDigest_total (hmem ▸ hw) hinitial (hsize ▸ hk)
    rw [← hbase, this, halg]
    rfl
  case frame => rw [digestBody_read (hmem ▸ hw) hmd.1, hbase, hsize, if_neg (by omega), hmem]
  case err => exact (digestBody_err v).trans (updateBody_err _)
  case alg => rw [digestBody_alg, halg]
  case buflen => exact digestBody_buflen v
  case h => rw [hfresh j hj (halg ▸ hl), halg]

end Sys2Proof.Proofs
end

section
/-! SUPPORT. The primitives of 40_primitives.md: rotates bit by bit and on a pair of words, stores byte by byte and
loaded back. -/

namespace Sys2Proof.Machine

/-! ### Rotates bit by bit (R126, R129) -/

/-- Rotating left by less than the width moves bit `i` to place `(i + n) mod w`. -/
theorem getLsbD_rotateLeft_moved {w n i : Nat} (x : BitVec w) (hn : n < w) (hi : i < w) :
    (x.rotateLeft n).getLsbD ((i + n) % w) = x.getLsbD i := by
  rw [BitVec.getLsbD_rotateLeft_of_le hn]
  obtain h | h : i + n < w ∨ w ≤ i + n := by omega
  · simp [Nat.mod_eq_of_lt h, h]
  · have hmod : (i + n) % w = i + n - w := by
      rw [Nat.mod_eq_sub_mod h, Nat.mod_eq_of_lt (by omega)]
    simp [hmod, show i + n - w < n by omega, show w - n + (i + n - w) = i by omega]

theorem rotl32_eq_rotateLeft (x : Word) {n : Nat} (h : n < 32) : rotl32 x n = x.rotateLeft n :=
  (BitVec.rotateLeft_eq_rotateLeftAux_of_lt h).symm

theorem rotl64_eq_rotateLeft (l : Dword) {n : Nat} (h : n < 64) : rotl64 l n = l.rotateLeft n :=
  (BitVec.rotateLeft_eq_rotateLeftAux_of_lt h).symm

theorem getLsbD_rotl32_moved (x : Word) {n i : Nat} (hn : n < 32) (hi : i < 32) :
    (rotl32 x n).getLsbD ((i + n) % 32) = x.getLsbD i := by
  rw [rotl32_eq_rotateLeft x hn, getLsbD_rotateLeft_moved x hn hi]

/-- Rotating right by `n` is rotating left by `32 - n`, which moves bit `(i + n) mod 32` to place `i`. -/
theorem getLsbD_rotr32 (x : Word) {n i : Nat} (hn : n < 32) (hi : i < 32) :
    (rotr32 x n).getLsbD i = x.getLsbD ((i + n) % 32) := by
  have hplace : ((i + n) % 32 + (32 - n) % 32) % 32 = i := by omega
  have := getLsbD_rotl32_moved x (n := (32 - n) % 32) (i := (i + n) % 32) (by omega) (by omega)
  rwa [hplace] at this

@[simp] theorem rotl32_zero (x : Word) : rotl32 x 0 = x := by
  rw [rotl32, BitVec.shiftLeft_zero, BitVec.ushiftRight_eq_zero (by decide), BitVec.or_zero]

@[simp] theorem rotl64_zero (l : Dword) : rotl64 l 0 = l := by
  rw [rotl64, BitVec.shiftLeft_zero, BitVec.ushiftRight_eq_zero (by decide), BitVec.or_zero]

theorem getLsbD_rotl64_moved (l : Dword) {n i : Nat} (hn : n < 64) (hi : i < 64) :
    (rotl64 l n).getLsbD ((i + n) % 64) = l.getLsbD i := by
  rw [rotl64_eq_rotateLeft l hn, getLsbD_rotateLeft_moved l hn hi]

/-- Bit `i` of the result is the bit `n` places below it, around the end. -/
theorem getLsbD_rotl64 (l : Dword) {n i : Nat} (hn : n < 64) (hi : i < 64) :
    (rotl64 l n).getLsbD i = if i < n then l.getLsbD (64 - n + i) else l.getLsbD (i - n) := by
  rw [rotl64_eq_rotateLeft l hn, BitVec.getLsbD_rotateLeft_of_le hn]
  simp [hi, Bool.cond_eq_ite]

/-! ### Rotates on the low and the high word of a dword (R129) -/

section WordPair

variable (l : Dword) {n : Nat}

/-- Below 32, the low word takes the top bits of the high word. -/
theorem rotl64_low (h : n < 32) :
    (rotl64 l n).extractLsb' 0 32 = (l.extractLsb' 0 32 <<< n ||| l.extractLsb' 32 32 >>> (32 - n)) := by
  apply BitVec.eq_of_getLsbD_eq
  intro i hi
  rw [BitVec.getLsbD_extractLsb', getLsbD_rotl64 l (by omega) (by omega)]
  obtain hin | hin := Nat.lt_or_ge i n
  · simp [hi, hin, show 64 - n + i = 32 + (32 - n + i) by omega, show 32 - n + i < 32 by omega]
  · simp [hi, Nat.not_lt.mpr hin, show ¬ 32 - n + i < 32 by omega]

/-- Below 32, the high word takes the top bits of the low word. -/
theorem rotl64_high (h : n < 32) :
    (rotl64 l n).extractLsb' 32 32 = (l.extractLsb' 32 32 <<< n ||| l.extractLsb' 0 32 >>> (32 - n)) := by
  apply BitVec.eq_of_getLsbD_eq
  intro i hi
  rw [BitVec.getLsbD_extractLsb', getLsbD_rotl64 l (by omega) (by omega), if_neg (by omega)]
  obtain hin | hin := Nat.lt_or_ge i n
  · simp [hi, hin, show 32 + i - n = 32 - n + i by omega, show 32 - n + i < 32 by omega]
  · simp [hi, Nat.not_lt.mpr hin, show ¬ 32 - n + i < 32 by omega,
      show 32 + i - n = 32 + (i - n) by omega]

/-- Rotating 32 places further swaps the words: the low one. -/
theorem rotl64_add_low (h : n < 32) :
    (rotl64 l (n + 32)).extractLsb' 0 32 = (rotl64 l n).extractLsb' 32 32 := by
  apply BitVec.eq_of_getLsbD_eq
  intro i hi
  rw [BitVec.getLsbD_extractLsb', BitVec.getLsbD_extractLsb', getLsbD_rotl64 l (by omega) (by omega),
    getLsbD_rotl64 l (by omega) (by omega), if_pos (by omega), if_neg (by omega),
    show 64 - (n + 32) + (0 + i) = 32 + i - n by omega]

/-- Rotating 32 places further swaps the words: the high one. -/
theorem rotl64_add_high (h : n < 32) :
    (rotl64 l (n + 32)).extractLsb' 32 32 = (rotl64 l n).extractLsb' 0 32 := by
  apply BitVec.eq_of_getLsbD_eq
  intro i hi
  rw [BitVec.getLsbD_extractLsb', BitVec.getLsbD_extractLsb', getLsbD_rotl64 l (by omega) (by omega),
    getLsbD_rotl64 l (by omega) (by omega)]
  obtain hin | hin := Nat.lt_or_ge i n
  · rw [if_pos (by omega), if_pos (by omega), show 64 - (n + 32) + (32 + i) = 64 - n + (0 + i) by omega]
  · rw [if_neg (by omega), if_neg (by omega), show 32 + i - (n + 32) = 0 + i - n by omega]

end WordPair

/-! ### Stores and loads (R130, R131) -/

/-- Byte `k` of a little-endian dword. -/
theorem byteAt_st64le (d : Dword) (k : Nat) (h : k < 8) : byteAt (st64le d) k = d.extractLsb' (8 * k) 8 := by
  interval_cases k <;> rfl

/-- Byte `k` of a big-endian dword. -/
theorem byteAt_st64be (d : Dword) (k : Nat) (h : k < 8) :
    byteAt (st64be d) k = d.extractLsb' (56 - 8 * k) 8 := by
  interval_cases k <;> rfl

theorem byteAt_append_middle (before xs after : List Byte) {j : Nat} (h : j < xs.length) :
    byteAt (before ++ xs ++ after) (before.length + j) = byteAt xs j := by
  rw [List.append_assoc, byteAt_append_right _ _ _ (by omega), Nat.add_sub_cancel_left, byteAt_append_left _ _ _ h]

theorem byteAt_append_start (before xs after : List Byte) (h : 0 < xs.length) :
    byteAt (before ++ xs ++ after) before.length = byteAt xs 0 := byteAt_append_middle before xs after h

/-- A word is the sum of its four bytes. -/
theorem word_of_bytes (v : Word) :
    BitVec.ofNat 32 ((v.extractLsb' 0 8).toNat + 2 ^ 8 * (v.extractLsb' 8 8).toNat
      + 2 ^ 16 * (v.extractLsb' 16 8).toNat + 2 ^ 24 * (v.extractLsb' 24 8).toNat) = v := by
  apply BitVec.eq_of_toNat_eq
  simp only [toNat_field, BitVec.toNat_ofNat]
  omega

/-- A little-endian load at the place of a little-endian store. -/
theorem ld32le_st32le (before after : List Byte) (v : Word) :
    ld32le (before ++ st32le v ++ after) before.length = v := by
  have hbyte (j : Nat) (h : j < 4) := byteAt_append_middle before (st32le v) after h
  rw [ld32le, hbyte 1 (by decide), hbyte 2 (by decide), hbyte 3 (by decide), byteAt_append_start _ _ _ (by simp)]
  exact word_of_bytes v

/-- A big-endian load at the place of a big-endian store: the same four bytes, added up in the other order. -/
theorem ld32be_st32be (before after : List Byte) (v : Word) :
    ld32be (before ++ st32be v ++ after) before.length = v := by
  have hbyte (j : Nat) (h : j < 4) := byteAt_append_middle before (st32be v) after h
  rw [ld32be, hbyte 1 (by decide), hbyte 2 (by decide), hbyte 3 (by decide), byteAt_append_start _ _ _ (by simp)]
  refine Eq.trans (congrArg (BitVec.ofNat 32) ?_) (word_of_bytes v)
  simp only [st32be, byteAt_cons_zero, byteAt_cons_succ]
  omega

end Sys2Proof.Machine

namespace Sys2Proof.Proofs

open Sys2Proof.Machine

/-- Settles O9: `rotl32` is the library's rotate, whose bits move by `n`; `rotr32` is `rotl32` by the rest of 32. -/
theorem rotatesMoveEveryBit : Obligations.RotatesMoveEveryBit := by
  intro x n i hn hi
  exact ⟨getLsbD_rotl32_moved x (by omega) hi, getLsbD_rotr32 x (by omega) hi, fun _ => rfl, rotl32_zero x, rfl⟩

/-- Settles O10: below 32 each word takes the bits that leave the other, and 32 places more swap the words. -/
theorem laneRotateOnWordPair : Obligations.LaneRotateOnWordPair := by
  intro l n hn
  refine ⟨fun i hi => getLsbD_rotl64_moved l (by omega) hi, ?zero, ?below, ?half, ?above⟩
  case zero =>
    rintro rfl
    simp
  case below => exact fun ⟨_, h⟩ => ⟨rotl64_low l (by omega), rotl64_high l (by omega)⟩
  case half =>
    rintro rfl
    exact ⟨by simpa using rotl64_add_low l (n := 0) (by decide), by simpa using rotl64_add_high l (n := 0) (by decide)⟩
  case above =>
    intro h
    obtain ⟨m, rfl⟩ : ∃ m, n = m + 32 := ⟨n - 32, by omega⟩
    have hm : m < 32 := by omega
    rw [show 64 - (m + 32) = 32 - m by omega, Nat.add_sub_cancel]
    exact ⟨(rotl64_add_low l hm).trans (rotl64_high l hm), (rotl64_add_high l hm).trans (rotl64_low l hm)⟩

/-- Settles O11: each byte of a store is a field of the value, and a load adds the fields up again. -/
theorem storedWordsLoadBack : Obligations.StoredWordsLoadBack := by
  intro v d before after
  refine ⟨⟨length_st32le v, length_st32be v, fun k hk => ⟨byteAt_st32le v k hk, ?word⟩⟩,
    ⟨length_st64le d, length_st64be d, fun k hk => ⟨byteAt_st64le d k hk, ?dword⟩⟩,
    ld32le_st32le before after v, ld32be_st32be before after v⟩
  case word => rw [byteAt_st32be v _ (by omega), show 24 - 8 * (3 - k) = 8 * k by omega]
  case dword => rw [byteAt_st64be d _ (by omega), show 56 - 8 * (7 - k) = 8 * k by omega]

end Sys2Proof.Proofs
end

section
/-! SUPPORT. INIT of the MD family and RESET: what a new instance holds (R141 to R143), and what RESET restores
(R145). -/

namespace Sys2Proof.Machine

/-! ### INIT (R141 to R143) -/

/-- A live word of a new instance is that of the initial vector (R28). -/
theorem createInstance_live (a : Alg) (kb : BitVec 10) (kp : KPad) (o : Word) (s : State) {i : Nat} (hi : i < 50)
    (hl : i < liveCount a) : (createInstance a kb kp o s).h[i] = initialWord a i := by
  simp only [createInstance_h, getElem_withInitial, if_pos hl]

/-- INIT writes the instance, clears the error, and keeps the rest. -/
theorem createInstance_frame (a : Alg) (kb : BitVec 10) (kp : KPad) (o : Word) (s : State) :
    createInstance a kb kp o s = { s with
      alg := a, kbits := kb, kpad := kp, outbits := o, h := (createInstance a kb kp o s).h, buflen := 0, total := 0
      fin := false, err := .none, errcmd := 0, draws := (createInstance a kb kp o s).draws } := rfl

/-- `STATUS` of a new instance: `CREATED` alone (R38). -/
theorem statusWord_createInstance {a : Alg} (ha : a ≠ .none) (kb : BitVec 10) (kp : KPad) (o : Word) (s : State) :
    statusWord (createInstance a kb kp o s) = 0x100#32 := by
  simp [statusWord, created, errCode, ha]

/-- `CFG` of a new instance of the MD family: `ALG` alone (R37). -/
theorem cfgWord_createInstance_md (a : Alg) (s : State) :
    cfgWord (createInstance a 0 .keccak 0 s) = BitVec.ofNat 32 (algCode a * 2 ^ 20) := by
  simp [cfgWord, kpadCode]

/-! ### RESET (R145) -/

/-- A command but INIT, with no error and no instance (R313). -/
theorem commonGates_of_no_instance {i : Instr} {s : State} {go : Outcome} (he : s.err = .none) (ha : s.alg = .none) :
    commonGates i s go = .next { s with err := .notCreated, errcmd := encode i } := by
  rw [commonGates, if_pos he, decide_eq_false (not_not.2 ha), check_false, raise_of_none _ _ _ he]

theorem exec_reset_of_running {s : State} (he : s.err = .none) (ha : s.alg ≠ .none) :
    exec .reset s = .next (instanceReset s) := commonGates_of_running he ha

/-- RESET writes the instance's contents only. -/
theorem instanceReset_frame (s : State) :
    instanceReset s = { s with h := (instanceReset s).h, buflen := 0, total := 0, fin := false } := rfl

theorem instanceReset_word (s : State) {i : Nat} (hi : i < 50) :
    (instanceReset s).h[i] = if i < liveCount s.alg then initialWord s.alg i else s.h[i] := by
  simp only [instanceReset_h, getElem_withInitial]

/-- A fresh instance is its own reset. -/
theorem instanceReset_of_fresh {s : State}
    (hh : ∀ i (hi : i < 50), i < liveCount s.alg → s.h[i] = initialWord s.alg i) (hb : s.buflen = 0)
    (ht : s.total = 0) (hf : s.fin = false) : instanceReset s = s := by
  have hwords : withInitial s.alg s.h = s.h := words_ext _ _ fun i hi => by
    rw [getElem_withInitial]
    split
    · exact (hh i hi ‹_›).symm
    · rfl
  rw [instanceReset, hwords, ← hb, ← ht, ← hf]

end Sys2Proof.Machine

namespace Sys2Proof.Proofs

open Sys2Proof.Machine

/-- Settles O18: INIT.MD5 is `createInstance` in every state. -/
theorem initMd5CreatesAnInstance : Obligations.InitMd5CreatesAnInstance := by
  have live (s : State) {i : Nat} (hi : i < 50) := createInstance_live .md5 0 .keccak 0 s hi
  exact ⟨rfl, fun s => ⟨_, rfl, createInstance_frame .md5 0 .keccak 0 s, rfl, rfl,
    statusWord_createInstance (by decide) _ _ _ s, cfgWord_createInstance_md .md5 s, live s _ (by decide),
    live s _ (by decide), live s _ (by decide), live s _ (by decide)⟩⟩

/-- Settles O19: INIT.SHA1 is `createInstance` in every state. -/
theorem initSha1CreatesAnInstance : Obligations.InitSha1CreatesAnInstance := by
  have live (s : State) {i : Nat} (hi : i < 50) := createInstance_live .sha1 0 .keccak 0 s hi
  exact ⟨rfl, fun s => ⟨_, rfl, createInstance_frame .sha1 0 .keccak 0 s, rfl, rfl,
    statusWord_createInstance (by decide) _ _ _ s, cfgWord_createInstance_md .sha1 s, live s _ (by decide),
    live s _ (by decide), live s _ (by decide), live s _ (by decide), live s _ (by decide)⟩⟩

/-- Settles O20: INIT.SHA256 is `createInstance` in every state. -/
theorem initSha256CreatesAnInstance : Obligations.InitSha256CreatesAnInstance := by
  have live (s : State) {i : Nat} (hi : i < 50) := createInstance_live .sha256 0 .keccak 0 s hi
  exact ⟨rfl, fun s => ⟨_, rfl, createInstance_frame .sha256 0 .keccak 0 s, rfl, rfl,
    statusWord_createInstance (by decide) _ _ _ s, cfgWord_createInstance_md .sha256 s, live s _ (by decide),
    live s _ (by decide), live s _ (by decide), live s _ (by decide), live s _ (by decide), live s _ (by decide),
    live s _ (by decide), live s _ (by decide)⟩⟩

/-- Settles O22: past the gates RESET is `instanceReset`. -/
theorem resetCommandRestoresTheInstance : Obligations.ResetCommandRestoresTheInstance := by
  refine ⟨rfl, fun s => ⟨fun he ha => ?resets, fun he ha => ?noInstance, fun he => ?ignored⟩⟩
  case resets =>
    exact ⟨_, exec_reset_of_running he ha, instanceReset_frame s, fun i hi => instanceReset_word s hi,
      instanceReset_of_fresh⟩
  case noInstance => exact commonGates_of_no_instance he ha
  case ignored => exact commonGates_of_err he

end Sys2Proof.Proofs
end

section
/-! SUPPORT. UPDATE: one command absorbs the full blocks of the live and source bytes (R146, R147), and a run of them
is one pass of the loop over the concatenated bytes, however they were cut (R149). -/

namespace Sys2Proof.Machine

open Sys2Proof.Claims

/-! ### One UPDATE -/

@[simp] theorem length_sourceBytes (s : State) : (sourceBytes s).length = s.srcCnt.toNat := by
  simp [sourceBytes]

theorem chunk_updateBody (s : State) : chunk (updateBody s) = chunk s := by
  rw [updateBody_frame]
  rfl

theorem updateBody_trace (s : State) : (updateBody s).trace = s.trace ++ sourceReads s s.srcCnt.toNat := by
  rw [updateBody, logReads_trace, readEvents_readBytes, pushBytes_trace]
  rfl

/-- `TOTAL` counts modulo `2^64`. -/
theorem updateBody_total_toNat (s : State) :
    (updateBody s).total.toNat = (s.total.toNat + s.srcCnt.toNat) % 2 ^ 64 := by
  have hcnt := s.srcCnt.isLt
  rw [updateBody_total, BitVec.toNat_add, BitVec.toNat_setWidth, Nat.mod_eq_of_lt (by omega : s.srcCnt.toNat < 2 ^ 64)]

/-- An UPDATE of no bytes changes nothing. -/
theorem updateBody_of_no_bytes {s : State} (h : s.srcCnt = 0) : updateBody s = s := by
  have hn : s.srcCnt.toNat = 0 := by rw [h]; rfl
  have htotal : s.total + s.srcCnt.setWidth 64 = s.total := by rw [h]; exact BitVec.add_zero _
  rw [updateBody, hn, Memory.readBytes_zero, pushBytes_nil, htotal, logReads, readEvents_nil, List.append_nil]

/-! ### A run of UPDATEs (R149) -/

/-- Two states with the same configuration, `H`, `BUF` and `BUFLEN`: all that UPDATE's loop reads. -/
structure SameEngine (s t : State) : Prop where
  alg : s.alg = t.alg
  kbits : s.kbits = t.kbits
  h : s.h = t.h
  buf : s.buf = t.buf
  buflen : s.buflen = t.buflen

theorem SameEngine.pushByte {s t : State} (e : SameEngine s t) (b : Byte) :
    SameEngine (pushByte s b) (pushByte t b) := by
  obtain ⟨ha, hk, hh, hb, hl⟩ := e
  have hc : chunk s = chunk t := by rw [chunk, ha, hk]; rfl
  refine ⟨ha, hk, ?_, ?_, ?_⟩ <;> simp only [Machine.pushByte, ha, hh, hb, hl, hc]

theorem SameEngine.pushBytes {s t : State} (e : SameEngine s t) (bs : List Byte) :
    SameEngine (pushBytes s bs) (pushBytes t bs) := by
  induction bs generalizing s t with
  | nil => exact e
  | cons b bs ih => exact ih (e.pushByte b)

/-- An UPDATE is the loop over its piece's bytes. -/
theorem sameEngine_updateBody (p : Piece) (s : State) :
    SameEngine (updateBody (withPiece p s)) (pushBytes s (pieceBytes s p)) :=
  have e := SameEngine.pushBytes (s := withPiece p s) (t := s) ⟨rfl, rfl, rfl, rfl, rfl⟩ (pieceBytes s p)
  ⟨e.alg, e.kbits, e.h, e.buf, e.buflen⟩

theorem updateBody_total_piece (p : Piece) (s : State) :
    (updateBody (withPiece p s)).total = s.total + BitVec.ofNat 64 (pieceBytes s p).length := by
  rw [pieceBytes, length_sourceBytes, BitVec.ofNat_toNat, updateBody_total]
  rfl

/-- A run of UPDATEs completes, and leaves the engine as one pass of the loop over all the bytes does. -/
theorem updates_run {s : State} {ps : List Piece} (hr : Running s) (hf : s.fin = false)
    (hs : ∀ p ∈ ps, SourceOk (withPiece p s) p.cnt.toNat) :
    ∃ t, UpdatesTo ps s t ∧ SameEngine t (pushBytes s (ps.flatMap (pieceBytes s))) ∧
      t.total = s.total + BitVec.ofNat 64 (ps.flatMap (pieceBytes s)).length := by
  induction ps generalizing s with
  | nil => exact ⟨s, rfl, ⟨rfl, rfl, rfl, rfl, rfl⟩, (BitVec.add_zero _).symm⟩
  | cons p ps ih =>
    have hexec : exec .update (withPiece p s) = .next (updateBody (withPiece p s)) :=
      exec_update_of_ok hr hf (hs p List.mem_cons_self)
    set u := updateBody (withPiece p s)
    have hmem : u.mem = s.mem := updateBody_mem _
    have hplat : u.plat = s.plat := updateBody_plat _
    have hbytes : pieceBytes u = pieceBytes s := funext fun q => by
      simp only [pieceBytes, sourceBytes, withPiece, srcBase, hmem]
    obtain ⟨t, hrun, hsame, htotal⟩ := ih (s := u)
      ⟨(updateBody_err _).trans hr.1, by rw [updateBody_alg]; exact hr.2⟩ ((updateBody_fin _).trans hf)
      fun q hq => by
        have := hs q (List.mem_cons_of_mem p hq)
        simpa only [SourceOk, withPiece, srcBase, hplat] using this
    have hstep := (sameEngine_updateBody p s).pushBytes (ps.flatMap (pieceBytes s))
    rw [← pushBytes_append, ← List.flatMap_cons] at hstep
    rw [hbytes] at hsame htotal
    refine ⟨t, ⟨u, hexec, hrun⟩, ?_, ?_⟩
    · exact ⟨hsame.alg.trans hstep.alg, hsame.kbits.trans hstep.kbits, hsame.h.trans hstep.h,
        hsame.buf.trans hstep.buf, hsame.buflen.trans hstep.buflen⟩
    · rw [htotal, updateBody_total_piece, List.flatMap_cons, List.length_append, BitVec.ofNat_add, BitVec.add_assoc]

end Sys2Proof.Machine

namespace Sys2Proof.Proofs

open Sys2Proof.Machine Sys2Proof.Claims

/-- Settles O23: the bytes in the buffer are a stream whose blocks are all absorbed but the last, and UPDATE takes the
source bytes into the stream. -/
theorem updateAbsorbsEveryFullBlock : Obligations.UpdateAbsorbsEveryFullBlock := by
  intro s hinv hr hf hs
  have hlt := hinv.buffer hr.2
  have hle := chunk_le s hinv
  obtain ⟨habs, hlive, hlen⟩ := (buffered_start hlt hle).updateBody (by omega) hle
  have hlength : (liveBytes s ++ sourceBytes s).length = s.buflen.toNat + s.srcCnt.toNat := by
    rw [List.length_append, length_sourceBytes, liveBytes_eq_bufBlock, length_bufBlock _ _ (by omega)]
  rw [chunk_updateBody, hlength] at habs hlive hlen
  rw [updateBody_alg] at habs
  exact ⟨_, exec_update_of_ok hr hf hs, (updateBody_frame s).trans (by rw [updateBody_total]), habs, hlen, hlive,
    updateBody_total_toNat s, updateBody_trace s, updateBody_of_no_bytes⟩

/-- Settles O24: both runs leave what one pass over the same bytes leaves. -/
theorem updateSplitsAgree : Obligations.UpdateSplitsAgree := by
  intro s ps qs hr hf hps hqs hbytes
  obtain ⟨t, htrun, ht, httotal⟩ := updates_run hr hf hps
  obtain ⟨u, hurun, hu, hutotal⟩ := updates_run hr hf hqs
  rw [hbytes] at ht httotal
  have hbuf := ht.buf.trans hu.buf.symm
  have hbuflen := ht.buflen.trans hu.buflen.symm
  exact ⟨t, u, htrun, hurun, ht.h.trans hu.h.symm, by rw [liveBytes, hbuf, hbuflen]; rfl, hbuflen,
    httotal.trans hutotal.symm⟩

end Sys2Proof.Proofs
end

section
/-! SUPPORT. DIGEST: what it writes (R167), the padded blocks of the MD family (R162, R166), and the two ways it leaves
the instance (R171, R172). -/

namespace Sys2Proof.Machine

open Sys2Proof.Claims

/-! ### The output (R68, R167) -/

/-- One write event for each output byte, with the value that memory holds afterwards. -/
theorem digestBody_trace {s : State} (hw : s.mem.wf = true) (ha : s.alg ≠ .none) :
    (digestBody s).trace = s.trace ++ (List.range (dsize s)).map fun k =>
      .write (dstBase s + k) ((digestBody s).mem.read (dstBase s + k)) := by
  have hlen : (digestBytes (padMessage s)).length = dsize s := by
    rw [length_digestBytes _ (by rwa [padMessage_alg]), padMessage_dsize]
  have htrace : (digestBody s).trace = s.trace ++ writeEvents (dstBase s) (digestBytes (padMessage s)) := by
    rw [digestBody_frame]
  rw [htrace, writeEvents_eq, hlen]
  refine congrArg (s.trace ++ ·) (List.map_congr_left fun k hk => ?_)
  have := List.mem_range.1 hk
  rw [digestBody_read hw ha, if_pos (by omega), Nat.add_sub_cancel_left]

theorem digestBody_read_outside {s : State} (hw : s.mem.wf = true) (ha : s.alg ≠ .none) {a : Nat}
    (h : a < dstBase s ∨ dstBase s + dsize s ≤ a) : (digestBody s).mem.read a = s.mem.read a := by
  rw [digestBody_read hw ha, if_neg (by omega)]

/-- The output of the MD family: the byte image of the state after the padded blocks. -/
theorem digestBody_read_md {s : State} (hw : s.mem.wf = true) (ha : IsMd s.alg) (hb : s.buflen.toNat < 64) {k : Nat}
    (hk : k < dsize s) :
    (digestBody s).mem.read (dstBase s + k) =
      mdDigestByte s.alg
        (absorbAll s.alg 64 (if s.buflen.toNat ≤ 55 then 1 else 2) s.h
          (liveBytes s ++ mdPadding s.alg s.buflen.toNat s.total)) k := by
  have hk' : k < 4 * liveCount s.alg := by rwa [dsize, dsizeOf_md ha] at hk
  rw [digestBody_read hw ha.1, if_pos (by omega), Nat.add_sub_cancel_left, digestBytes_of_md ha,
    byteAt_extractMd ha _ hk', padMd_h (chunk_md s ha.1 ha.2) hb]

/-! ### The end of DIGEST (R171, R172) -/

/-- A padded instance whose output is in memory, before `FINISH()`. -/
def digestStored (s : State) : State :=
  storeOutput (dstBase s) (digestBytes (padMessage s)) (padMessage s)

theorem digestStored_frame (s : State) :
    digestStored s = { s with
      h := (padMessage s).h, buf := (padMessage s).buf, mem := (digestStored s).mem
      trace := (digestStored s).trace } := by
  rw [digestStored, storeOutput, padMessage_frame]

theorem digestBody_of_reset {s : State} (h : s.alg = .keccak → s.plat.keccakReuse = .reset) :
    digestBody s = instanceReset (digestStored s) := by
  obtain ⟨hk, he, -⟩ | ⟨-, hfin⟩ := finish_cases (digestStored s)
  · rw [digestStored, storeOutput_alg, padMessage_alg] at hk
    rw [digestStored, storeOutput_plat, padMessage_plat, h hk] at he
    cases he
  · exact hfin

theorem digestBody_of_error {s : State} (hk : s.alg = .keccak) (he : s.plat.keccakReuse = .error) :
    digestBody s = finalizeInstance (digestStored s) := by
  obtain ⟨-, -, hfin⟩ | ⟨hnot, -⟩ := finish_cases (digestStored s)
  · exact hfin
  · rw [digestStored, storeOutput_alg, storeOutput_plat, padMessage_alg, padMessage_plat] at hnot
    exact absurd ⟨hk, he⟩ hnot

/-- The reset writes the live words; padding has left the dead ones alone. -/
theorem digestBody_word_of_reset {s : State} (h : s.alg = .keccak → s.plat.keccakReuse = .reset) {i : Nat}
    (hi : i < 50) :
    (digestBody s).h[i] = if i < liveCount s.alg then initialWord s.alg i else s.h[i] := by
  have halg : (digestStored s).alg = s.alg := padMessage_alg s
  rw [digestBody_of_reset h, instanceReset_word _ hi, halg]
  split
  · rfl
  · exact padMessage_dead s i hi (by omega)

/-! ### A finalized instance (R172, R321) -/

/-- UPDATE of a finalized instance. -/
theorem exec_update_of_finalized {s : State} (h : Running s) (hf : s.fin = true) :
    exec .update s = .next { s with err := .finalized, errcmd := 0x02000000#32 } := by
  obtain ⟨he, ha⟩ := h
  simp only [exec, execUpdate, commonGates_of_running he ha, hf, Bool.not_true, check_false, raise_of_none _ _ _ he]
  rfl

/-- DIGEST of a finalized instance. -/
theorem exec_digest_of_finalized {s : State} (h : Running s) (hf : s.fin = true) :
    exec .digest s = .next { s with err := .finalized, errcmd := 0x03000000#32 } := by
  obtain ⟨he, ha⟩ := h
  simp only [exec, execDigest, commonGates_of_running he ha, hf, Bool.not_true, check_false, raise_of_none _ _ _ he]
  rfl

/-- XF.KECCAKF is not gated by `FIN` (R262). -/
theorem exec_xfKeccakf_of_running {s : State} (h : Running s) (hk : s.alg = .keccak) :
    exec .xfKeccakf s = .next { s with h := keccakF s.h } := by
  obtain ⟨he, ha⟩ := h
  simp only [exec, execXfKeccakf, commonGates_of_running he ha, hk, decide_true, check_true]

theorem transformAlg_of_isInit {i : Instr} (h : isInit i = true) : transformAlg i = none := by
  cases i <;> simp_all [isInit, transformAlg]

/-- An INIT that leaves no error has created an instance, which is not finalized (R317). -/
theorem fin_of_successful_init {i : Instr} {s t : State} (hi : isInit i = true) (h : exec i s = .next t)
    (he : t.err = .none) : t.fin = false := by
  obtain ⟨a, kb, kp, o, -, -, -, -, rfl⟩ | ⟨e, hne, -, rfl⟩ | ⟨hn, -, -⟩ | ⟨-, -, h⟩ := exec_next h
  · rfl
  · rw [raise_err] at he
    split at he
    · exact absurd he hne
    · exact absurd he ‹_›
  · rw [hi] at hn
    cases hn
  · obtain ⟨rfl, -⟩ | ⟨rfl, -⟩ | ⟨rfl, -⟩ | ⟨hx, -⟩ | ⟨rfl, -⟩ := h
    · cases hi
    · cases hi
    · cases hi
    · rw [transformAlg_of_isInit hi] at hx
      cases hx
    · cases hi

end Sys2Proof.Machine

namespace Sys2Proof.Proofs

open Sys2Proof.Machine Sys2Proof.Claims

/-- Settles O25: `PAD_MD()` absorbs the live bytes with the padding, and the digest is what memory gets. -/
theorem digestPadsAndExtracts : Obligations.DigestPadsAndExtracts := by
  intro s hinv hok hk
  have hmd : IsMd s.alg := ⟨hok.1.2, hk⟩
  have hb : s.buflen.toNat < 64 := chunk_md s hmd.1 hk ▸ hinv.buffer hmd.1
  refine ⟨_, exec_digest_of_ok hok, ?length, fun k hks => digestBody_read_md hinv.memory hmd hb hks⟩
  rw [List.length_append, liveBytes_eq_bufBlock, length_bufBlock _ _ (by omega), length_mdPadding _ _ hb]

/-- Settles O27: DIGEST ends in the instance's reset, and writes its output bytes. -/
theorem digestResetsTheInstance : Obligations.DigestResetsTheInstance := by
  intro s hinv hok hreuse
  have ha := hok.1.2
  refine ⟨fun h => by rw [dsize, h]; rfl, fun h => by rw [dsize, h]; rfl, fun h => by rw [dsize, h]; rfl, _,
    exec_digest_of_ok hok, ?frame, fun i hi => digestBody_word_of_reset hreuse hi,
    fun a => digestBody_read_outside hinv.memory ha, digestBody_trace hinv.memory ha⟩
  rw [digestBody_of_reset hreuse, instanceReset, digestStored_frame]

/-- Settles O28: DIGEST ends in `finalizeInstance`, and each later command is asked about the state that leaves. -/
theorem digestFinalizesUnderErrorPolicy : Obligations.DigestFinalizesUnderErrorPolicy := by
  intro s hinv hok hk he
  have ha := hok.1.2
  have hbody := digestBody_of_error hk he
  have hrun : Running (digestBody s) :=
    ⟨(digestBody_err s).trans hok.1.1, by rwa [digestBody_alg]⟩
  have hkeccak : (digestBody s).alg = .keccak := (digestBody_alg s).trans hk
  have hfin : (digestBody s).fin = true := by rw [hbody, finalizeInstance_fin]
  refine ⟨_, exec_digest_of_ok hok, ?frame, fun a => digestBody_read_outside hinv.memory ha,
    digestBody_trace hinv.memory ha, exec_update_of_finalized hrun hfin, exec_digest_of_finalized hrun hfin, ?reset,
    ⟨_, exec_xfKeccakf_of_running hrun hkeccak, rfl⟩, fun i u => fin_of_successful_init⟩
  case frame => rw [hbody, finalizeInstance, digestStored_frame]
  case reset =>
    rw [exec_reset_of_running hrun.1 hrun.2, instanceReset, hkeccak, withInitial_keccak, ← digestBody_buflen s]

end Sys2Proof.Proofs
end

section
/-! SUPPORT. XF.MD5, XF.SHA1 and XF.SHA256 when every check passes, and the 64 steps of MD5 (R184 to R192). -/

namespace Sys2Proof.Machine

open Sys2Proof.Claims

/-! ### A transform of the source block -/

theorem execBlockTransform_of_ok {a : Alg} {i : Instr} {s : State} (hr : Running s) (ha : s.alg = a)
    (hs : SourceOk s 64) : execBlockTransform a i s = .next (transformSource s) := by
  obtain ⟨he, hn⟩ := hr
  rw [execBlockTransform, commonGates_of_running he hn, decide_eq_true ha, check_true, checkSource,
    checkMemory_of_ok hs.1 hs.2]

theorem transformSource_eq_sourceReads (s : State) :
    transformSource s = { s with h := (transformSource s).h, trace := s.trace ++ sourceReads s 64 } := by
  rw [transformSource_frame, sourceBlock, readEvents_readBytes]
  rfl

theorem transformSource_h (s : State) :
    (transformSource s).h = absorbBlock s.alg (chunk s) s.h (sourceBlock s) := rfl

theorem transformSource_dead (s : State) {i : Nat} (hi : i < 50) (hl : liveCount s.alg ≤ i) :
    (transformSource s).h[i] = s.h[i] := by
  simp only [transformSource_h]
  exact absorbBlock_dead _ _ _ _ i hi hl

theorem ld32le_sourceBlock (s : State) {i : Nat} (hi : i < 16) :
    ld32le (sourceBlock s) (4 * i) = blockWordLe s i := by
  simp only [ld32le, sourceBlock, blockWordLe, byteAt_readBytes _ _ 64 (4 * i) (by omega),
    byteAt_readBytes _ _ 64 (4 * i + 1) (by omega), byteAt_readBytes _ _ 64 (4 * i + 2) (by omega),
    byteAt_readBytes _ _ 64 (4 * i + 3) (by omega), Nat.add_assoc]

/-! ### One step of MD5 -/

/-- The round of a step, as the model computes it and as the rules bound it. -/
theorem md5_round_cases {j : Nat} (hj : j < 64) :
    (j / 16 = 0 ∧ j ≤ 15) ∨ (j / 16 = 1 ∧ ¬ j ≤ 15 ∧ j ≤ 31) ∨ (j / 16 = 2 ∧ ¬ j ≤ 15 ∧ ¬ j ≤ 31 ∧ j ≤ 47) ∨
      (j / 16 = 3 ∧ ¬ j ≤ 15 ∧ ¬ j ≤ 31 ∧ ¬ j ≤ 47) := by
  omega

theorem md5F_eq {j : Nat} (hj : j < 64) (b c d : Word) :
    md5F j b c d =
      if j ≤ 15 then (b &&& c) ||| (~~~b &&& d) else if j ≤ 31 then (b &&& d) ||| (c &&& ~~~d)
      else if j ≤ 47 then b ^^^ c ^^^ d else c ^^^ (b ||| ~~~d) := by
  rcases md5_round_cases hj with h | h | h | h <;> simp only [md5F, h, if_true, if_false]

theorem md5G_eq {j : Nat} (hj : j < 64) :
    md5G j =
      if j ≤ 15 then j else if j ≤ 31 then (5 * j + 1) % 16 else if j ≤ 47 then (3 * j + 5) % 16 else 7 * j % 16 := by
  rcases md5_round_cases hj with h | h | h | h <;> simp only [md5G, h, if_true, if_false]

theorem md5S_eq {j : Nat} (hj : j < 64) :
    md5S j =
      (if j ≤ 15 then [7, 12, 17, 22] else if j ≤ 31 then [5, 9, 14, 20]
       else if j ≤ 47 then [4, 11, 16, 23] else [6, 10, 15, 21]).getD (j % 4) 0 := by
  rcases md5_round_cases hj with h | h | h | h <;> simp only [md5S, h, if_true, if_false]

theorem md5G_lt {j : Nat} (hj : j < 64) : md5G j < 16 := by
  rw [md5G_eq hj]
  split_ifs <;> omega

theorem md5Vars_zero (hin : Vector Word 4) (block : List Byte) :
    md5Vars hin block 0 = ⟨hin[0], hin[1], hin[2], hin[3]⟩ := rfl

theorem md5Vars_succ (hin : Vector Word 4) (block : List Byte) (j : Nat) :
    md5Vars hin block (j + 1) = md5Step (fun i => ld32le block (4 * i)) (md5Vars hin block j) j := by
  simp only [md5Vars, List.range_succ, List.foldl_append, List.foldl_cons, List.foldl_nil]

/-! ### The whole transform -/

/-- The working variables of XF.MD5 after `j` steps. -/
def xfMd5Vars (s : State) (j : Nat) : Md5Vars := md5Vars (firstWords 4 (by decide) s.h) (sourceBlock s) j

theorem xfMd5Vars_zero (s : State) : xfMd5Vars s 0 = ⟨s.h[0], s.h[1], s.h[2], s.h[3]⟩ := by
  simp [xfMd5Vars, md5Vars_zero]

theorem xfMd5Vars_succ (s : State) {j : Nat} (hj : j < 64) :
    xfMd5Vars s (j + 1) = md5Step (blockWordLe s) (xfMd5Vars s j) j := by
  rw [xfMd5Vars, md5Vars_succ, ← xfMd5Vars]
  simp only [md5Step, ld32le_sourceBlock s (md5G_lt hj)]

/-- XF.MD5 adds the last working variables into `H[0..3]` (R192). -/
theorem transformSource_md5 {s : State} (ha : s.alg = .md5) :
    (transformSource s).h[0] = s.h[0] + (xfMd5Vars s 64).a ∧ (transformSource s).h[1] = s.h[1] + (xfMd5Vars s 64).b ∧
      (transformSource s).h[2] = s.h[2] + (xfMd5Vars s 64).c ∧
      (transformSource s).h[3] = s.h[3] + (xfMd5Vars s 64).d := by
  simp only [transformSource_h, ha, absorbBlock, md5Xf, xfMd5Vars]
  simp

end Sys2Proof.Machine

namespace Sys2Proof.Proofs

open Sys2Proof.Machine

/-- Settles O35: the working variables are the four sequences, and each step is `md5Step` read by its round. -/
theorem xfMd5RunsSixtyFourSteps : Obligations.XfMd5RunsSixtyFourSteps := by
  intro s hr ha hs
  refine ⟨_, execBlockTransform_of_ok hr ha hs, transformSource_eq_sourceReads s,
    fun i hi hl => transformSource_dead s hi (by rwa [ha]),
    fun j => (xfMd5Vars s j).a, fun j => (xfMd5Vars s j).b, fun j => (xfMd5Vars s j).c, fun j => (xfMd5Vars s j).d,
    ?start, fun j hj => ?step, transformSource_md5 ha⟩
  case start => simp only [xfMd5Vars_zero, and_self]
  case step =>
    rw [← md5F_eq hj, ← md5G_eq hj, ← md5S_eq hj]
    simp only [xfMd5Vars_succ s hj, md5Step, and_self]

end Sys2Proof.Proofs
end

section
/-! SUPPORT. MD5's constants as sines (R183): `sin n` is the imaginary part of `(exp I) ^ n`. A Gaussian integer over
`19!` stands for `exp I`, its powers are exact, and what separates them from the powers of `exp I` is small enough to
fix each floor. -/

namespace Sys2Proof.Machine

open Complex Finset
open scoped Nat

/-- The first 20 terms of the series of `exp I`, times `19!`. -/
def expITaylor : GaussianInt := ∑ m ∈ range 20, ((19 ! / m ! : ℕ) : GaussianInt) * ⟨0, 1⟩ ^ m

theorem toComplex_expITaylor :
    GaussianInt.toComplex expITaylor = (19 ! : ℂ) * ∑ m ∈ range 20, I ^ m / (m ! : ℂ) := by
  rw [expITaylor, map_sum, mul_sum]
  refine sum_congr rfl fun m hm => ?_
  have hdvd : m ! ∣ 19 ! := Nat.factorial_dvd_factorial (by have := mem_range.1 hm; omega)
  have hne : (m ! : ℂ) ≠ 0 := Nat.cast_ne_zero.2 m.factorial_ne_zero
  rw [map_mul, map_natCast, map_pow, GaussianInt.toComplex_def', Nat.cast_div hdvd hne]
  push_cast
  ring

/-- The sum of the first 20 terms itself. -/
noncomputable def expIApprox : ℂ := GaussianInt.toComplex expITaylor / (19 ! : ℂ)

theorem norm_exp_I_sub_expIApprox_le : ‖exp I - expIApprox‖ ≤ 1 / 2 ^ 60 := by
  have hne : (19 ! : ℂ) ≠ 0 := Nat.cast_ne_zero.2 (Nat.factorial_ne_zero 19)
  rw [expIApprox, toComplex_expITaylor, mul_div_cancel_left₀ _ hne]
  refine (exp_bound norm_I.le (n := 20) (by decide)).trans ?_
  rw [norm_I, one_pow, one_mul]
  norm_num [Nat.factorial]

/-- The series is cut after a negative cosine term and a negative sine term, so the approximation lies in the unit disc. -/
theorem norm_expIApprox_le_one : ‖expIApprox‖ ≤ 1 := by
  have hnorm : expITaylor.norm ≤ (19 ! : ℤ) ^ 2 := by decide +kernel
  have hsq : ‖GaussianInt.toComplex expITaylor‖ ^ 2 ≤ (19 ! : ℝ) ^ 2 := by
    rw [← normSq_eq_norm_sq, ← GaussianInt.intCast_real_norm]
    exact_mod_cast hnorm
  have hpos : (0 : ℝ) < 19 ! := Nat.cast_pos.2 (Nat.factorial_pos 19)
  rw [expIApprox, norm_div, norm_natCast, div_le_one hpos]
  exact le_of_sq_le_sq hsq hpos.le

/-- In the unit disc, an `n`th power carries `n` times the error of its base. -/
theorem norm_pow_sub_pow_le {x y : ℂ} (hx : ‖x‖ ≤ 1) (hy : ‖y‖ ≤ 1) (n : ℕ) :
    ‖x ^ n - y ^ n‖ ≤ n * ‖x - y‖ := by
  induction n with
  | zero => simp
  | succ n ih =>
    calc ‖x ^ (n + 1) - y ^ (n + 1)‖ = ‖x ^ n * (x - y) + (x ^ n - y ^ n) * y‖ := by ring_nf
      _ ≤ ‖x ^ n * (x - y)‖ + ‖(x ^ n - y ^ n) * y‖ := norm_add_le _ _
      _ ≤ ‖x - y‖ + ‖x ^ n - y ^ n‖ := by
        rw [norm_mul, norm_mul, norm_pow]
        exact add_le_add (mul_le_of_le_one_left (norm_nonneg _) (pow_le_one₀ (norm_nonneg _) hx))
          (mul_le_of_le_one_right (norm_nonneg _) hy)
      _ ≤ (n + 1 : ℕ) * ‖x - y‖ := by push_cast; linarith

theorem exp_I_pow_im (n : ℕ) : (exp I ^ n).im = Real.sin n := by
  rw [← exp_nat_mul, ← ofReal_natCast, exp_ofReal_mul_I_im]

theorem abs_expIApprox_pow_im (n : ℕ) :
    |(expIApprox ^ n).im| = ((expITaylor ^ n).im.natAbs : ℝ) / (19 ! : ℝ) ^ n := by
  rw [expIApprox, div_pow, ← map_pow, ← Nat.cast_pow, div_natCast_im, ← GaussianInt.intCast_im, abs_div, Nat.abs_cast,
    Nat.cast_natAbs, Int.cast_abs, Nat.cast_pow]

/-- `|sin n|` from the `n`th power of the Gaussian integer. -/
theorem abs_abs_sin_sub_le (n : ℕ) :
    |(|Real.sin n| - ((expITaylor ^ n).im.natAbs : ℝ) / (19 ! : ℝ) ^ n)| ≤ n / 2 ^ 60 :=
  calc |(|Real.sin n| - ((expITaylor ^ n).im.natAbs : ℝ) / (19 ! : ℝ) ^ n)|
      = |(|(exp I ^ n).im| - |(expIApprox ^ n).im|)| := by rw [exp_I_pow_im, abs_expIApprox_pow_im]
    _ ≤ |(exp I ^ n - expIApprox ^ n).im| := abs_abs_sub_abs_le _ _
    _ ≤ ‖exp I ^ n - expIApprox ^ n‖ := abs_im_le_norm _
    _ ≤ n * ‖exp I - expIApprox‖ :=
      norm_pow_sub_pow_le (by simpa using (norm_exp_I_mul_ofReal 1).le) norm_expIApprox_le_one n
    _ ≤ n * (1 / 2 ^ 60) := by gcongr; exact norm_exp_I_sub_expIApprox_le
    _ = n / 2 ^ 60 := mul_one_div _ _

/-- `t` is the floor of `2^32` times every number within `n / 2^60` of `|im (expITaylor ^ n)| / 19! ^ n`. -/
def IsSineFloor (n t : ℕ) : Prop :=
  (2 ^ 28 * t + n) * 19 ! ^ n ≤ 2 ^ 60 * (expITaylor ^ n).im.natAbs ∧
  2 ^ 60 * (expITaylor ^ n).im.natAbs + n * 19 ! ^ n < 2 ^ 28 * (t + 1) * 19 ! ^ n

theorem floor_abs_sin_of_isSineFloor {n t : ℕ} (h : IsSineFloor n t) : ⌊2 ^ 32 * |Real.sin n|⌋₊ = t := by
  obtain ⟨hlow, hhigh⟩ := h
  have hd : (0 : ℝ) < (19 ! : ℝ) ^ n := pow_pos (Nat.cast_pos.2 (Nat.factorial_pos 19)) n
  obtain ⟨hl, hr⟩ := abs_le.1 (abs_abs_sin_sub_le n)
  have hlow' : (2 ^ 28 * t + n : ℝ) ≤ 2 ^ 60 * (((expITaylor ^ n).im.natAbs : ℝ) / (19 ! : ℝ) ^ n) := by
    rw [← mul_div_assoc, le_div_iff₀ hd]
    exact_mod_cast hlow
  have hhigh' : 2 ^ 60 * (((expITaylor ^ n).im.natAbs : ℝ) / (19 ! : ℝ) ^ n) + n < (2 ^ 28 * (t + 1) : ℝ) := by
    rw [← mul_div_assoc, div_add' _ _ _ hd.ne', div_lt_iff₀ hd]
    exact_mod_cast hhigh
  rw [Nat.floor_eq_iff (by positivity)]
  constructor <;> linarith

/-- The 64 entries of `T` against the exact powers. -/
theorem isSineFloor_md5T : ∀ j, j < 64 → IsSineFloor (j + 1) (md5T.getD j 0).toNat := by
  unfold IsSineFloor
  decide +kernel

end Sys2Proof.Machine

namespace Sys2Proof.Proofs

open Sys2Proof.Machine

/-- Settles O41: `sin (j + 1)` is known to within `(j + 1) / 2^60`, which fixes the floor for every `j`. -/
theorem md5ConstantsAreSines : Obligations.Md5ConstantsAreSines := by
  intro j hj
  rw [← floor_abs_sin_of_isSineFloor (isSineFloor_md5T j hj), Nat.cast_succ]

end Sys2Proof.Proofs
end

section
/-! SUPPORT. The schedule of SHA-1 (R212, R214) and its 80 steps (R213 to R219). -/

namespace Sys2Proof.Machine

open Sys2Proof.Claims

theorem ld32be_sourceBlock (s : State) {i : Nat} (hi : i < 16) :
    ld32be (sourceBlock s) (4 * i) = blockWordBe s i := by
  simp only [ld32be, sourceBlock, blockWordBe, byteAt_readBytes _ _ 64 (4 * i) (by omega),
    byteAt_readBytes _ _ 64 (4 * i + 1) (by omega), byteAt_readBytes _ _ 64 (4 * i + 2) (by omega),
    byteAt_readBytes _ _ 64 (4 * i + 3) (by omega), Nat.add_assoc]

/-! ### The schedule -/

/-- Later schedule words leave the earlier ones in place. -/
theorem sha1Extend_reverse_getD_of_lt (n : Nat) {ws : List Word} {j : Nat} (hj : j < ws.length) :
    (sha1Extend n ws).reverse.getD j 0 = ws.reverse.getD j 0 := by
  induction n generalizing ws with
  | zero => rfl
  | succ n ih =>
    rw [sha1Extend, ih (by simp only [List.length_cons]; omega), List.reverse_cons,
      List.getD_append _ _ _ _ (by rwa [List.length_reverse])]

theorem sha1Extend_reverse_getD_length_sub (n : Nat) {ws : List Word} {k : Nat} (hk : 0 < k) (hlen : k ≤ ws.length) :
    (sha1Extend n ws).reverse.getD (ws.length - k) 0 = ws.getD (k - 1) 0 := by
  rw [sha1Extend_reverse_getD_of_lt n (by omega), List.getD_reverse _ (by omega)]
  congr 1
  omega

/-- Each word added is made of four before it (R214): the words stand newest first while they are made, and oldest
first where they are read. -/
theorem sha1Extend_reverse_getD (n : Nat) {ws : List Word} {j : Nat} (hlen : 16 ≤ ws.length)
    (hlow : ws.length ≤ j) (hhigh : j < n + ws.length) :
    (sha1Extend n ws).reverse.getD j 0 =
      rotl32 ((sha1Extend n ws).reverse.getD (j - 3) 0 ^^^ (sha1Extend n ws).reverse.getD (j - 8) 0 ^^^
        (sha1Extend n ws).reverse.getD (j - 14) 0 ^^^ (sha1Extend n ws).reverse.getD (j - 16) 0) 1 := by
  induction n generalizing ws with
  | zero => omega
  | succ n ih =>
    obtain rfl | hlt := hlow.eq_or_lt
    · have hold {k : Nat} (hk : 0 < k) (hk' : k ≤ 16) :=
        sha1Extend_reverse_getD_length_sub (n + 1) hk (hk'.trans hlen)
      rw [hold (k := 3) (by decide) (by decide), hold (k := 8) (by decide) (by decide),
        hold (k := 14) (by decide) (by decide), hold (k := 16) (by decide) (by decide), sha1Extend]
      exact sha1Extend_reverse_getD_length_sub n (ws := _ :: ws) Nat.one_pos (by simp)
    · rw [sha1Extend]
      exact ih (by simp only [List.length_cons]; omega) hlt (by simp only [List.length_cons]; omega)

theorem sha1Schedule_of_lt (block : List Byte) {j : Nat} (hj : j < 16) :
    (sha1Schedule block).getD j 0 = ld32be block (4 * j) := by
  rw [sha1Schedule, sha1Extend_reverse_getD_of_lt 64 (by simpa), List.reverse_reverse]
  simp [hj]

theorem sha1Schedule_recurrence (block : List Byte) {j : Nat} (hlow : 16 ≤ j) (hhigh : j < 80) :
    (sha1Schedule block).getD j 0 =
      rotl32 ((sha1Schedule block).getD (j - 3) 0 ^^^ (sha1Schedule block).getD (j - 8) 0 ^^^
        (sha1Schedule block).getD (j - 14) 0 ^^^ (sha1Schedule block).getD (j - 16) 0) 1 :=
  sha1Extend_reverse_getD 64 (by simp) (by simpa) (by simpa)

/-! ### One step of SHA-1 -/

/-- The round of a step, as the model computes it and as the rules bound it. -/
theorem sha1_round_cases {j : Nat} (hj : j < 80) :
    (j / 20 = 0 ∧ j ≤ 19) ∨ (j / 20 = 1 ∧ ¬ j ≤ 19 ∧ j ≤ 39) ∨ (j / 20 = 2 ∧ ¬ j ≤ 19 ∧ ¬ j ≤ 39 ∧ j ≤ 59) ∨
      (j / 20 = 3 ∧ ¬ j ≤ 19 ∧ ¬ j ≤ 39 ∧ ¬ j ≤ 59) := by
  omega

theorem sha1F_eq {j : Nat} (hj : j < 80) (b c d : Word) :
    sha1F j b c d =
      if j ≤ 19 then (b &&& c) ||| (~~~b &&& d) else if j ≤ 39 then b ^^^ c ^^^ d
      else if j ≤ 59 then (b &&& c) ||| (b &&& d) ||| (c &&& d) else b ^^^ c ^^^ d := by
  rcases sha1_round_cases hj with h | h | h | h <;> simp only [sha1F, h, if_true, if_false]

theorem sha1K_eq {j : Nat} (hj : j < 80) :
    sha1K j =
      if j ≤ 19 then 0x5A827999#32 else if j ≤ 39 then 0x6ED9EBA1#32
      else if j ≤ 59 then 0x8F1BBCDC#32 else 0xCA62C1D6#32 := by
  rcases sha1_round_cases hj with h | h | h | h <;> simp only [sha1K, h, if_true, if_false]

theorem sha1Vars_zero (hin : Vector Word 5) (block : List Byte) :
    sha1Vars hin block 0 = ⟨hin[0], hin[1], hin[2], hin[3], hin[4]⟩ := rfl

theorem sha1Vars_succ (hin : Vector Word 5) (block : List Byte) (j : Nat) :
    sha1Vars hin block (j + 1) = sha1Step (sha1Schedule block) (sha1Vars hin block j) j := by
  simp only [sha1Vars, List.range_succ, List.foldl_append, List.foldl_cons, List.foldl_nil]

/-! ### The whole transform -/

/-- The working variables of XF.SHA1 after `j` steps. -/
def xfSha1Vars (s : State) (j : Nat) : Sha1Vars := sha1Vars (firstWords 5 (by decide) s.h) (sourceBlock s) j

theorem xfSha1Vars_zero (s : State) : xfSha1Vars s 0 = ⟨s.h[0], s.h[1], s.h[2], s.h[3], s.h[4]⟩ := by
  simp [xfSha1Vars, sha1Vars_zero]

theorem xfSha1Vars_succ (s : State) (j : Nat) :
    xfSha1Vars s (j + 1) = sha1Step (sha1Schedule (sourceBlock s)) (xfSha1Vars s j) j :=
  sha1Vars_succ _ _ j

/-- XF.SHA1 adds the last working variables into `H[0..4]` (R217). -/
theorem transformSource_sha1 {s : State} (ha : s.alg = .sha1) :
    (transformSource s).h[0] = s.h[0] + (xfSha1Vars s 80).a ∧
      (transformSource s).h[1] = s.h[1] + (xfSha1Vars s 80).b ∧
      (transformSource s).h[2] = s.h[2] + (xfSha1Vars s 80).c ∧
      (transformSource s).h[3] = s.h[3] + (xfSha1Vars s 80).d ∧
      (transformSource s).h[4] = s.h[4] + (xfSha1Vars s 80).e := by
  simp only [transformSource_h, ha, absorbBlock, sha1Xf, xfSha1Vars]
  simp

end Sys2Proof.Machine

namespace Sys2Proof.Proofs

open Sys2Proof.Machine

/-- Settles O36: `w` is the model's schedule, whose words obey R214's recurrence; the working variables are the five
other sequences, and each step is `sha1Step` read by its round. -/
theorem xfSha1RunsEightySteps : Obligations.XfSha1RunsEightySteps := by
  intro s hr ha hs
  refine ⟨_, execBlockTransform_of_ok hr ha hs, transformSource_eq_sourceReads s,
    fun i hi hl => transformSource_dead s hi (by rwa [ha]),
    fun j => (sha1Schedule (sourceBlock s)).getD j 0,
    fun j => (xfSha1Vars s j).a, fun j => (xfSha1Vars s j).b, fun j => (xfSha1Vars s j).c, fun j => (xfSha1Vars s j).d,
    fun j => (xfSha1Vars s j).e,
    fun j hj => (sha1Schedule_of_lt _ hj).trans (ld32be_sourceBlock s hj),
    fun j hlow hhigh => sha1Schedule_recurrence _ hlow hhigh,
    ?start, fun j hj => ?step, transformSource_sha1 ha⟩
  case start => simp only [xfSha1Vars_zero, and_self]
  case step =>
    rw [← sha1F_eq hj, ← sha1K_eq hj]
    simp only [xfSha1Vars_succ, sha1Step, and_self]

end Sys2Proof.Proofs
end

section
/-! SUPPORT. The schedule of SHA-256 (R232, R236) and its 64 steps (R237 to R242). -/

namespace Sys2Proof.Machine

open Sys2Proof.Claims

/-! ### The schedule of SHA-256 -/

/-- From word 16 on, every word of the list is made of four before it (R236). -/
def IsSha256Schedule (w : List Word) : Prop :=
  ∀ j, 16 ≤ j → j < w.length →
    w.getD j 0 = w.getD (j - 16) 0 + smallSigma0 (w.getD (j - 15) 0) + w.getD (j - 7) 0 + smallSigma1 (w.getD (j - 2) 0)

/-- A word made of the last ones by R236 prolongs a schedule; `ws` lists its words newest first. -/
theorem isSha256Schedule_reverse_cons {ws : List Word} (hlen : 16 ≤ ws.length) (h : IsSha256Schedule ws.reverse) :
    IsSha256Schedule
      ((ws.getD 15 0 + smallSigma0 (ws.getD 14 0) + ws.getD 6 0 + smallSigma1 (ws.getD 1 0)) :: ws).reverse := by
  intro j hlow hhigh
  simp only [List.length_reverse, List.length_cons] at hhigh
  have hold {x : Word} {i : Nat} (hi : i < ws.length) : (x :: ws).reverse.getD i 0 = ws.reverse.getD i 0 := by
    rw [List.reverse_cons, List.getD_append _ _ _ _ (by rwa [List.length_reverse])]
  rw [hold (i := j - 16) (by omega), hold (i := j - 15) (by omega), hold (i := j - 7) (by omega),
    hold (i := j - 2) (by omega)]
  obtain hj | rfl := Nat.lt_succ_iff_lt_or_eq.1 hhigh
  · rw [hold hj]
    exact h j hlow (by rwa [List.length_reverse])
  · have hlast {k : Nat} (hk : 0 < k) (hk' : k ≤ 16) : ws.reverse.getD (ws.length - k) 0 = ws.getD (k - 1) 0 := by
      rw [List.getD_reverse _ (by omega)]
      congr 1
      omega
    rw [hlast (k := 16) (by decide) (by decide), hlast (k := 15) (by decide) (by decide),
      hlast (k := 7) (by decide) (by decide), hlast (k := 2) (by decide) (by decide)]
    simp

theorem length_sha256Extend (n : Nat) (ws : List Word) : (sha256Extend n ws).length = n + ws.length := by
  induction n generalizing ws with
  | zero => rw [sha256Extend, Nat.zero_add]
  | succ n ih => rw [sha256Extend, ih, List.length_cons, Nat.add_right_comm, Nat.add_assoc]

theorem suffix_sha256Extend (n : Nat) (ws : List Word) : ws <:+ sha256Extend n ws := by
  induction n generalizing ws with
  | zero => exact List.suffix_rfl
  | succ n ih => exact (List.suffix_cons _ ws).trans (ih _)

theorem isSha256Schedule_reverse_sha256Extend (n : Nat) {ws : List Word} (hlen : 16 ≤ ws.length)
    (h : IsSha256Schedule ws.reverse) : IsSha256Schedule (sha256Extend n ws).reverse := by
  induction n generalizing ws with
  | zero => exact h
  | succ n ih => exact ih (hlen.trans (Nat.le_succ _)) (isSha256Schedule_reverse_cons hlen h)

theorem length_sha256Schedule (block : List Byte) : (sha256Schedule block).length = 64 := by
  simp [sha256Schedule, length_sha256Extend]

theorem isSha256Schedule_sha256Schedule (block : List Byte) : IsSha256Schedule (sha256Schedule block) := by
  refine isSha256Schedule_reverse_sha256Extend 48 (by simp) fun j hlow hhigh => ?_
  have hlt : j < 16 := by simpa using hhigh
  omega

/-- The first 16 words are those of the block (R232). -/
theorem sha256Schedule_of_lt (block : List Byte) {j : Nat} (hj : j < 16) :
    (sha256Schedule block).getD j 0 = ld32be block (4 * j) := by
  have hprefix := List.reverse_prefix.2
    (suffix_sha256Extend 48 ((List.range 16).map fun i => ld32be block (4 * i)).reverse)
  rw [List.reverse_reverse] at hprefix
  rw [sha256Schedule, List.getD_eq_getElem?_getD, List.prefix_iff_getElem?.1 hprefix j (by simpa)]
  simp

/-! ### The whole transform -/

theorem sha256Vars_zero (hin : Vector Word 8) (block : List Byte) :
    sha256Vars hin block 0 = ⟨hin[0], hin[1], hin[2], hin[3], hin[4], hin[5], hin[6], hin[7]⟩ := rfl

theorem sha256Vars_succ (hin : Vector Word 8) (block : List Byte) (j : Nat) :
    sha256Vars hin block (j + 1) = sha256Step (sha256Schedule block) (sha256Vars hin block j) j := by
  simp only [sha256Vars, List.range_succ, List.foldl_append, List.foldl_cons, List.foldl_nil]

/-- The working variables of XF.SHA256 after `j` steps. -/
def xfSha256Vars (s : State) (j : Nat) : Sha256Vars := sha256Vars (firstWords 8 (by decide) s.h) (sourceBlock s) j

theorem xfSha256Vars_zero (s : State) :
    xfSha256Vars s 0 = ⟨s.h[0], s.h[1], s.h[2], s.h[3], s.h[4], s.h[5], s.h[6], s.h[7]⟩ := by
  simp [xfSha256Vars, sha256Vars_zero]

theorem xfSha256Vars_succ (s : State) (j : Nat) :
    xfSha256Vars s (j + 1) = sha256Step (sha256Schedule (sourceBlock s)) (xfSha256Vars s j) j :=
  sha256Vars_succ _ _ j

/-- XF.SHA256 adds the last working variables into `H[0..7]` (R240). -/
theorem transformSource_sha256 {s : State} (ha : s.alg = .sha256) :
    (transformSource s).h[0] = s.h[0] + (xfSha256Vars s 64).a ∧
      (transformSource s).h[1] = s.h[1] + (xfSha256Vars s 64).b ∧
      (transformSource s).h[2] = s.h[2] + (xfSha256Vars s 64).c ∧
      (transformSource s).h[3] = s.h[3] + (xfSha256Vars s 64).d ∧
      (transformSource s).h[4] = s.h[4] + (xfSha256Vars s 64).e ∧
      (transformSource s).h[5] = s.h[5] + (xfSha256Vars s 64).f ∧
      (transformSource s).h[6] = s.h[6] + (xfSha256Vars s 64).g ∧
      (transformSource s).h[7] = s.h[7] + (xfSha256Vars s 64).h := by
  simp only [transformSource_h, ha, absorbBlock, sha256Xf, xfSha256Vars]
  simp

end Sys2Proof.Machine

namespace Sys2Proof.Proofs

open Sys2Proof.Machine

/-- Settles O37: `w` is the model's schedule, which obeys R236's recurrence; the working variables are the eight other
sequences, and each step is `sha256Step`, whose six functions stand written out in the statement. -/
theorem xfSha256RunsSixtyFourSteps : Obligations.XfSha256RunsSixtyFourSteps := by
  intro s hr ha hs
  refine ⟨_, execBlockTransform_of_ok hr ha hs, transformSource_eq_sourceReads s,
    fun i hi hl => transformSource_dead s hi (by rwa [ha]),
    fun j => (sha256Schedule (sourceBlock s)).getD j 0,
    fun j => (xfSha256Vars s j).a, fun j => (xfSha256Vars s j).b, fun j => (xfSha256Vars s j).c,
    fun j => (xfSha256Vars s j).d, fun j => (xfSha256Vars s j).e, fun j => (xfSha256Vars s j).f,
    fun j => (xfSha256Vars s j).g, fun j => (xfSha256Vars s j).h,
    fun j hj => (sha256Schedule_of_lt _ hj).trans (ld32be_sourceBlock s hj),
    fun j hlow hhigh => isSha256Schedule_sha256Schedule _ j hlow (by rwa [length_sha256Schedule]),
    ?start, fun j _ => ?step, transformSource_sha256 ha⟩
  case start => simp only [xfSha256Vars_zero, and_self]
  case step =>
    simp only [xfSha256Vars_succ, sha256Step, bigSigma0, bigSigma1, choose, majority, and_self]

end Sys2Proof.Proofs
end

section
/-! SUPPORT. KECCAK_F on lanes in coordinates: `A[x, y]` is lane `x + 5 * y` (R263), what each step of a round does
there (R267 to R271), and the conversion between words and lanes (R261). -/

namespace Sys2Proof.Machine

open Sys2Proof.Claims

/-! ### The steps of a round, in coordinates -/

/-- The lane `A[x, y]` (R263). -/
def laneXY (l : Lanes) (x y : Nat) : Dword := laneAt l (x + 5 * y)

theorem laneAt_eq (l : Lanes) {i : Nat} (hi : i < 25) : laneAt l i = l[i] := dif_pos hi

/-- The lane at coordinates is an entry of the vector. -/
theorem laneXY_eq (l : Lanes) {x y : Nat} (hx : x < 5) (hy : y < 5) :
    laneXY l x y = l[x + 5 * y]'(by omega) := laneAt_eq l _

/-- The parity of a column, from its five lanes (R267). -/
theorem thetaC_eq (l : Lanes) (x : Nat) :
    thetaC l x = laneXY l x 0 ^^^ laneXY l x 1 ^^^ laneXY l x 2 ^^^ laneXY l x 3 ^^^ laneXY l x 4 := rfl

section
variable (l : Lanes) {x y : Nat} (hx : x < 5) (hy : y < 5)

include hx hy

theorem laneXY_theta : laneXY (theta l) x y = laneXY l x y ^^^ thetaD l x := by
  rw [laneXY_eq _ hx hy, laneXY_eq _ hx hy, theta, Vector.getElem_ofFn]
  simp only [Nat.add_mul_mod_self_left, Nat.mod_eq_of_lt hx]

/-- `PISRC` inverts the lane move of pi (R266). -/
theorem keccakPiSrc_getD : keccakPiSrc.getD (y + 5 * ((2 * x + 3 * y) % 5)) 0 = x + 5 * y := by
  have table : ∀ x < 5, ∀ y < 5, keccakPiSrc.getD (y + 5 * ((2 * x + 3 * y) % 5)) 0 = x + 5 * y := by decide
  exact table x hx y hy

/-- Pi moves `A[x, y]`, rotated by rho, to `B[y, 2x + 3y]` (R268). -/
theorem laneXY_rhoPi :
    laneXY (rhoPi l) y ((2 * x + 3 * y) % 5) = rotl64 (laneXY l x y) (keccakRho.getD (x + 5 * y) 0) := by
  rw [laneXY_eq _ hy (Nat.mod_lt _ (by decide)), rhoPi, Vector.getElem_ofFn, keccakPiSrc_getD hx hy, laneXY]

theorem laneXY_chi :
    laneXY (chi l) x y =
      laneXY l x y ^^^ (~~~laneXY l ((x + 1) % 5) y &&& laneXY l ((x + 2) % 5) y) := by
  have hrow : (x + 5 * y) / 5 = y := by omega
  have hnext (k : Nat) : 5 * y + (x + 5 * y + k) % 5 = (x + k) % 5 + 5 * y := by omega
  rw [laneXY_eq _ hx hy, laneXY_eq _ hx hy, chi, Vector.getElem_ofFn]
  simp only [hrow, hnext, laneXY]

theorem laneXY_iota (r : Nat) :
    laneXY (iota r l) x y = laneXY l x y ^^^ (if x = 0 ∧ y = 0 then keccakRC.getD r 0 else 0) := by
  have hfirst : x + 5 * y = 0 ↔ x = 0 ∧ y = 0 := by omega
  rw [laneXY_eq _ hx hy, laneXY_eq _ hx hy, iota, Vector.getElem_ofFn]
  simp only [hfirst]
  split
  · rfl
  · exact BitVec.xor_zero.symm

/-- Round `r` ends in chi and iota of the lanes after rho and pi (R270). -/
theorem laneXY_keccakRound (r : Nat) :
    laneXY (keccakRound l r) x y =
      laneXY (rhoPi (theta l)) x y ^^^
        (~~~laneXY (rhoPi (theta l)) ((x + 1) % 5) y &&& laneXY (rhoPi (theta l)) ((x + 2) % 5) y) ^^^
        (if x = 0 ∧ y = 0 then keccakRC.getD r 0 else 0) := by
  rw [keccakRound, laneXY_iota _ hx hy, laneXY_chi _ hx hy]

end

theorem keccakRounds_succ (n : Nat) (l : Lanes) :
    keccakRounds (n + 1) l = keccakRound (keccakRounds n l) n := by
  rw [keccakRounds, List.range_succ, List.foldl_append]
  rfl

/-! ### Words and lanes (R261) -/

/-- The two halves of the dword that a pair of words makes. -/
theorem extract_pair (lo hi : Word) :
    (BitVec.ofNat 64 (lo.toNat + 2 ^ 32 * hi.toNat)).extractLsb' 0 32 = lo ∧
      (BitVec.ofNat 64 (lo.toNat + 2 ^ 32 * hi.toNat)).extractLsb' 32 32 = hi := by
  have hlo := lo.isLt
  have hhi := hi.isLt
  constructor <;>
  · apply BitVec.eq_of_toNat_eq
    rw [BitVec.extractLsb'_toNat, BitVec.toNat_ofNat, Nat.shiftRight_eq_div_pow]
    omega

theorem laneAt_lanesOfWords (h : Vector Word 50) {i : Nat} (hi : i < 25) :
    (laneAt (lanesOfWords h) i).extractLsb' 0 32 = wordAt h (2 * i) ∧
      (laneAt (lanesOfWords h) i).extractLsb' 32 32 = wordAt h (2 * i + 1) := by
  rw [laneAt_eq _ hi, lanesOfWords, Vector.getElem_ofFn, wordAt_eq _ _ (by omega), wordAt_eq _ _ (by omega)]
  exact extract_pair _ _

theorem wordAt_wordsOfLanes (l : Lanes) {i : Nat} (hi : i < 25) :
    wordAt (wordsOfLanes l) (2 * i) = (laneAt l i).extractLsb' 0 32 ∧
      wordAt (wordsOfLanes l) (2 * i + 1) = (laneAt l i).extractLsb' 32 32 := by
  have hlow : 2 * i / 2 = i ∧ 2 * i % 2 = 0 := by omega
  have hhigh : (2 * i + 1) / 2 = i ∧ (2 * i + 1) % 2 = 1 := by omega
  rw [wordAt_eq _ _ (by omega), wordAt_eq _ _ (by omega), wordsOfLanes, Vector.getElem_ofFn, Vector.getElem_ofFn,
    laneAt_eq _ hi]
  simp only [hlow, hhigh, Nat.mul_zero, Nat.mul_one, and_self]

/-! ### The permutation -/

/-- The lanes after the first `r` rounds of `KECCAK_F` on `h`. -/
def lanesAfter (h : Vector Word 50) (r : Nat) : Lanes := keccakRounds r (lanesOfWords h)

theorem lanesAfter_succ (h : Vector Word 50) (r : Nat) :
    lanesAfter h (r + 1) = keccakRound (lanesAfter h r) r := keccakRounds_succ r _

/-- `KECCAK_F` is the 24 rounds in coordinates: `C`, `D`, `A'` and `B` are the values of theta, rho and pi on the lanes
after `r` rounds. -/
theorem runsKeccakRounds_keccakF (h : Vector Word 50) : RunsKeccakRounds h (keccakF h) := by
  refine ⟨fun r => laneXY (lanesAfter h r), fun r => laneXY (rhoPi (theta (lanesAfter h r))),
    fun r x _ => thetaC (lanesAfter h r) x, fun r x _ => thetaD (lanesAfter h r) x,
    fun r => laneXY (theta (lanesAfter h r)), fun x y hx hy => ?start, fun r _ x y hx hy => ?round,
    fun x y hx hy => ?finish⟩
  case start => exact laneAt_lanesOfWords h (by omega)
  case round =>
    exact ⟨thetaC_eq _ x, rfl, laneXY_theta _ hx hy, laneXY_rhoPi _ hx hy,
      by simp only [lanesAfter_succ, laneXY_keccakRound _ hx hy]⟩
  case finish => exact wordAt_wordsOfLanes _ (by omega)

end Sys2Proof.Machine

namespace Sys2Proof.Proofs

open Sys2Proof.Machine

/-- Settles O38: past the gates XF.KECCAKF is `keccakF`, whose rounds are those of the rules. -/
theorem xfKeccakfRunsTwentyFourRounds : Obligations.XfKeccakfRunsTwentyFourRounds := by
  intro s hr hk
  exact ⟨_, exec_xfKeccakf_of_running hr hk, rfl, fun _ => runsKeccakRounds_keccakF s.h⟩

end Sys2Proof.Proofs
end

section
/-! SUPPORT. DIGEST of a Keccak instance: the one padded block (R283, R284), the squeeze byte by byte (R288), and what
both leave in memory, whatever the output length (R290). -/

namespace Sys2Proof.Machine

open Sys2Proof.Claims

/-! ### The padded block (R283, R284) -/

theorem padByte_eq_paddingByte (kpad : KPad) : padByte kpad = paddingByte kpad := by
  cases kpad <;> rfl

/-- A byte of the block: live, the padding byte, or zero; and the top bit of the last one is flipped. -/
theorem getElem_markKeccak_buf {s : State} {k : Nat} (hk : k < chunk s) (hr : s.buflen.toNat < chunk s)
    (hn : chunk s ≤ 168) :
    (markKeccak s).buf[k] = keccakLastByte s.kpad (chunk s) (liveBytes s) k := by
  have hlen : (liveBytes s).length = s.buflen.toNat := length_bufBlock _ _ (by omega)
  have hmark : (bufXor (bufFill s.buf s.buflen.toNat (chunk s) 0) s.buflen.toNat (padByte s.kpad))[k] =
      if k < (liveBytes s).length then (liveBytes s).getD k 0
      else if k = (liveBytes s).length then paddingByte s.kpad else 0 := by
    rw [getElem_bufXor, getElem_bufFill, hlen]
    rcases lt_trichotomy k s.buflen.toNat with h | h | h
    · rw [if_neg (by omega), if_neg (by omega), if_pos h]
      exact (byteAt_bufBlock s.buf _ k h (by omega)).symm
    · rw [if_pos h, if_pos (by omega), if_neg (by omega), if_pos h, padByte_eq_paddingByte]
      exact BitVec.zero_xor
    · rw [if_neg (by omega), if_pos (by omega), if_neg (by omega), if_neg (by omega)]
  rw [markKeccak, getElem_bufXor, hmark, keccakLastByte]
  split
  · rfl
  · exact BitVec.xor_zero.symm

theorem bufBlock_markKeccak {s : State} (hr : s.buflen.toNat < chunk s) (hn : chunk s ≤ 168) :
    bufBlock (markKeccak s).buf (chunk s) =
      (List.range (chunk s)).map (keccakLastByte s.kpad (chunk s) (liveBytes s)) := by
  refine byteList_ext _ _ ?_ fun k hk => ?_
  · rw [length_bufBlock _ _ hn, List.length_map, List.length_range]
  · rw [length_bufBlock _ _ hn] at hk
    rw [byteAt_bufBlock _ _ _ hk (by omega), getElem_markKeccak_buf hk hr hn,
      byteAt_eq_getElem _ _ (by rwa [List.length_map, List.length_range]), List.getElem_map, List.getElem_range]

/-- `PAD_KECCAK()` absorbs that block. -/
theorem padKeccak_h {s : State} (ha : s.alg = .keccak) (hr : s.buflen.toNat < chunk s) (hn : chunk s ≤ 168) :
    (padKeccak s).h = spongeAbsorb (chunk s) s.h
      ((List.range (chunk s)).map (keccakLastByte s.kpad (chunk s) (liveBytes s))) := by
  have hc : chunk (markKeccak s) = chunk s := rfl
  rw [padKeccak, absorb_h, hc, bufBlock_markKeccak hr hn, markKeccak_alg, markKeccak_h, ha, spongeAbsorb_eq]
  rfl

/-! ### The squeeze (R288) -/

theorem squeezedByte_of_lt {n k : Nat} (h : Vector Word 50) (hk : k < n) : squeezedByte n h k = stateByte h k := by
  rw [squeezedByte, Nat.div_eq_of_lt hk, Nat.mod_eq_of_lt hk]
  rfl

/-- A whole block further on, the state is permuted once more. -/
theorem squeezedByte_add_rate {n : Nat} (hn : 0 < n) (h : Vector Word 50) (k : Nat) :
    squeezedByte n h (n + k) = squeezedByte n (keccakF h) k := by
  rw [squeezedByte, squeezedByte, Nat.add_div_left _ hn, Nat.add_mod_left, Function.iterate_succ_apply]

/-- From position `k` of a squeeze block on, the bytes are those of the output from its byte `k` on. At the end of the
block, `k = rate`, the next byte is the first of the permuted state. -/
theorem byteAt_squeeze {rate : Nat} (hrate : 0 < rate) {n k : Nat} (hk : k ≤ rate) (h : Vector Word 50) {j : Nat}
    (hj : j < n) : byteAt (squeeze rate n k h) j = squeezedByte rate h (k + j) := by
  induction n generalizing k h j with
  | zero => omega
  | succ n ih =>
    by_cases hend : k = rate
    case pos =>
      rw [squeeze, if_pos hend, hend, squeezedByte_add_rate hrate]
      cases j with
      | zero => rw [byteAt_cons_zero, squeezedByte_of_lt _ hrate]
      | succ j => rw [byteAt_cons_succ, ih hrate _ (by omega), Nat.add_comm]
    case neg =>
      rw [squeeze, if_neg hend]
      cases j with
      | zero => rw [byteAt_cons_zero, Nat.add_zero, squeezedByte_of_lt _ (by omega)]
      | succ j => rw [byteAt_cons_succ, ih (by omega) _ (by omega), Nat.add_right_comm, Nat.add_assoc]

/-! ### DIGEST -/

/-- The output of the sponge: the squeeze of the state after the padded block. -/
theorem digestBody_read_keccak {s : State} (hw : s.mem.wf = true) (ha : s.alg = .keccak)
    (hr : s.buflen.toNat < chunk s) (hn : chunk s ≤ 168) {k : Nat} (hk : k < dsize s) :
    (digestBody s).mem.read (dstBase s + k) =
      squeezedByte (chunk s)
        (spongeAbsorb (chunk s) s.h
          ((List.range (chunk s)).map (keccakLastByte s.kpad (chunk s) (liveBytes s)))) k := by
  have hbytes : digestBytes (padMessage s) = squeeze (chunk s) (dsize s) 0 (padKeccak s).h := by
    rw [digestBytes, padMessage, if_pos ha]
    exact if_pos ha
  rw [digestBody_read hw (by rw [ha]; decide), if_pos (by omega), Nat.add_sub_cancel_left, hbytes,
    byteAt_squeeze (by omega) (Nat.zero_le _) _ hk, Nat.zero_add, padKeccak_h ha hr hn]

end Sys2Proof.Machine

namespace Sys2Proof.Proofs

open Sys2Proof.Machine

/-- Settles O26: `PAD_KECCAK()` absorbs the padded block, and memory gets the squeeze of the state after it. -/
theorem digestPadsAndSqueezes : Obligations.DigestPadsAndSqueezes := by
  intro s hinv hok hk
  exact ⟨_, exec_digest_of_ok hok,
    fun k => digestBody_read_keccak hinv.memory hk (hinv.buffer hok.1.2) (chunk_le s hinv)⟩

/-- Settles O29: the byte that DIGEST puts at a place does not depend on the output length. -/
theorem shorterOutputIsAPrefix : Obligations.ShorterOutputIsAPrefix := by
  intro s n hinv hok hk s' hok' hle
  have hr := hinv.buffer hok.1.2
  have hn := chunk_le s hinv
  have hsize : dsize s ≤ dsize s' := by
    simp only [dsize, s', hk, dsizeOf]
    exact Nat.div_le_div_right hle
  refine ⟨_, _, exec_digest_of_ok hok, exec_digest_of_ok hok', fun k hks => ?_⟩
  exact (digestBody_read_keccak hinv.memory hk hr hn hks).trans
    (digestBody_read_keccak (s := s') hinv.memory hk hr hn (by omega)).symm

end Sys2Proof.Proofs
end

section
/-! SUPPORT. The gate (R316), the order of checks (R322) and how long an error stays (R317): a command is the list of
what it requires, in the spec's order, before its effect. -/

namespace Sys2Proof

/-- A word that decodes is the encoding of its command (R94). -/
theorem encode_of_decode {c : Word} {i : Instr} (h : decode c = some i) : encode i = c := by
  have hs : c ∈ fixedWords ∨ IsKeccakWord c := by
    by_contra hn
    rw [(decode_eq_none_iff c).2 hn] at h
    cases h
  obtain hm | hk := hs
  · have hfixed : ∀ w ∈ fixedWords, (decode w).map encode = some w := by
      simp [fixedWords, decode, opcodeMap, encode]
    simpa [h] using hfixed c hm
  · rw [decode_of_isKeccakWord hk, Option.some.injEq] at h
    rw [← h, encode_of_isKeccakWord hk]

end Sys2Proof

namespace Sys2Proof.Machine

open Sys2Proof.Claims

/-! ### The gate (R316) -/

theorem initWord_iff {c : Word} {i : Instr} (h : decode c = some i) : InitWord c ↔ isInit i = true := by
  simp [InitWord, h]

/-- A command but INIT begins with the common gates, so while there is an error it is ignored. -/
theorem exec_of_err {i : Instr} {s : State} (he : s.err ≠ .none) (hi : isInit i = false) : exec i s = .next s := by
  cases i with
  | initMd5 | initSha1 | initSha256 | initKeccak => cases hi
  | update | digest | reset | xfMd5 | xfSha1 | xfSha256 | xfKeccakf => exact commonGates_of_err he

/-- While there is an error, a word that is no INIT is held in `CMD` and has no other effect. -/
theorem writeCmd_of_err {c : Word} {s : State} (he : s.err ≠ .none) (hc : ¬ InitWord c) :
    writeCmd c s = .next { s with cmd := c } := by
  cases hd : decode c with
  | none => simp only [writeCmd, hd, raise_of_err _ _ { s with cmd := c } he]
  | some i =>
    rw [initWord_iff hd, Bool.not_eq_true] at hc
    simp only [writeCmd, hd, exec_of_err (s := { s with cmd := c }) he hc]

/-! ### A list of requirements -/

/-- `go`, if every requirement of the list is met; else the error of the first that is not (R322). -/
def checkAll (rs : List (Bool × Err)) (i : Instr) (s : State) (go : Outcome) : Outcome :=
  rs.foldr (fun r go => check r.1 r.2 i s go) go

/-- The check that a requirement is: when it fails, and the error it reports. -/
def failureOf (r : Bool × Err) : Prop × Err := (r.1 = false, r.2)

theorem not_firstFailing_nil {e : Err} : ¬ FirstFailing [] e := by
  rintro ⟨before, p, after, hl, -⟩
  simp at hl

/-- The first check that fails is the head of the list, or the head passes and it is the first of the tail. -/
theorem firstFailing_cons {q : Prop × Err} {l : List (Prop × Err)} {e : Err} (h : FirstFailing (q :: l) e) :
    (q.1 ∧ e = q.2) ∨ (¬ q.1 ∧ FirstFailing l e) := by
  obtain ⟨before, p, after, hl, hp, hbefore⟩ := h
  cases before with
  | nil =>
    obtain ⟨rfl, -⟩ := List.cons.inj hl
    exact .inl ⟨hp, rfl⟩
  | cons r before =>
    obtain ⟨rfl, rfl⟩ := List.cons.inj hl
    exact .inr ⟨hbefore q List.mem_cons_self, before, p, after, rfl, hp,
      fun r hr => hbefore r (List.mem_cons_of_mem q hr)⟩

/-- The first requirement that is not met is the error raised (R315, R322). -/
theorem checkAll_of_firstFailing {rs : List (Bool × Err)} {e : Err} (h : FirstFailing (rs.map failureOf) e)
    (i : Instr) (s : State) (go : Outcome) : checkAll rs i s go = .next (raise e (encode i) s) := by
  induction rs with
  | nil => exact absurd h not_firstFailing_nil
  | cons r rs ih =>
    rw [checkAll, List.foldr_cons]
    obtain ⟨hr, rfl⟩ | ⟨hr, h⟩ := firstFailing_cons h
    · rw [show r.1 = false from hr, check_false]
      rfl
    · rw [(Bool.not_eq_false _).mp hr, check_true]
      exact ih h

theorem checkAll_of_none_failing {rs : List (Bool × Err)} (h : ∀ q ∈ rs.map failureOf, ¬ q.1)
    (i : Instr) (s : State) (go : Outcome) : checkAll rs i s go = go := by
  induction rs with
  | nil => rfl
  | cons r rs ih =>
    rw [List.map_cons, List.forall_mem_cons] at h
    obtain ⟨hr, h⟩ := h
    rw [checkAll, List.foldr_cons, (Bool.not_eq_false _).mp hr, check_true]
    exact ih h

/-! ### What a command requires, and what it does -/

/-- The parameters are legal, of a command that has any (R104). -/
def legalParameters (i : Instr) (s : State) : Bool :=
  match i with
  | .initKeccak kpad kbits => paramsLegal kpad kbits s.argOutbits
  | _ => true

/-- What a command requires while no error is recorded: checks 3 to 9 of R322, in the spec's order. -/
def requirements (i : Instr) (s : State) : List (Bool × Err) :=
  [ (isInit i || decide (s.alg ≠ .none), .notCreated),
    ((transformAlg i).all fun a => decide (s.alg = a), .alg),
    (!(decide (i = .update) || decide (i = .digest)) || !s.fin, .finalized),
    (legalParameters i s, .param),
    (!decide (i = .digest) || decide (s.dstLen.toNat = dsize s), .bufSize),
    ((access i s).all fun r => rangeOk s r.1 r.2.1, .range),
    ((access i s).all fun r => everyAddress r.2.2 r.1 r.2.1, .bus) ]

/-- The bytes that a command accesses are ordinary memory (R69). -/
def accessOrdinary (i : Instr) (s : State) : Bool :=
  (access i s).all fun r => everyAddress (notDevice s.plat) r.1 r.2.1

/-- What a command does once every check has passed. -/
def effect (i : Instr) (s : State) : State :=
  match i with
  | .initMd5 => createInstance .md5 0 .keccak 0 s
  | .initSha1 => createInstance .sha1 0 .keccak 0 s
  | .initSha256 => createInstance .sha256 0 .keccak 0 s
  | .initKeccak kpad kbits => keccakInstance kpad kbits s
  | .update => updateBody s
  | .digest => digestBody s
  | .reset => instanceReset s
  | .xfMd5 => transformSource s
  | .xfSha1 => transformSource s
  | .xfSha256 => transformSource s
  | .xfKeccakf => { s with h := keccakF s.h }

theorem effect_err {i : Instr} {s : State} (h : s.err = .none ∨ isInit i = true) : (effect i s).err = .none := by
  cases i with
  | initMd5 | initSha1 | initSha256 | initKeccak => rfl
  | update => simpa [effect, isInit] using h
  | digest => simpa [effect, isInit] using h
  | reset | xfMd5 | xfSha1 | xfSha256 | xfKeccakf => simpa [effect, isInit, transformSource_frame] using h

theorem effect_cmd (i : Instr) (s : State) : (effect i s).cmd = s.cmd := by
  cases i with
  | initMd5 | initSha1 | initSha256 | initKeccak => rfl
  | update => rw [effect, updateBody_frame]
  | digest => rw [effect, digestBody_frame]
  | reset | xfMd5 | xfSha1 | xfSha256 | xfKeccakf => rfl

/-- A command that the gate lets through is its requirements and then, in ordinary memory, its effect. -/
theorem exec_eq_checkAll {i : Instr} {s : State} (h : s.err = .none ∨ isInit i = true) :
    exec i s = checkAll (requirements i s) i s
      (if accessOrdinary i s then .next (effect i s) else .refused .deviceRegion) := by
  cases i with
  | initMd5 | initSha1 | initSha256 | initKeccak => rfl
  | update | digest | reset | xfMd5 | xfSha1 | xfSha256 | xfKeccakf => exact if_pos (h.resolve_right Bool.false_ne_true)

/-! ### The spec's list of checks (R322) -/

theorem rangeOk_eq_false_iff (s : State) (base n : Nat) :
    rangeOk s base n = false ↔ 0 < n ∧ 2 ^ s.plat.aw < base + n := by
  rw [← Bool.not_eq_true, rangeOk_iff, Classical.not_imp, not_le]

theorem everyAddress_eq_false_iff (p : Nat → Bool) (base n : Nat) :
    everyAddress p base n = false ↔ ∃ a, base ≤ a ∧ a < base + n ∧ p a = false := by
  rw [← Bool.not_eq_true, everyAddress_iff]
  simp

section
variable {c : Word} {i : Instr} (h : decode c = some i) (s : State)
include h

theorem created_fails_iff : ¬ InitWord c ∧ s.alg = .none ↔ (isInit i || decide (s.alg ≠ .none)) = false := by
  rw [initWord_iff h]
  simp

theorem algorithm_fails_iff :
    (∃ j a, decode c = some j ∧ transformAlg j = some a ∧ s.alg ≠ a) ↔
      ((transformAlg i).all fun a => decide (s.alg = a)) = false := by
  simp [h, Option.all_eq_false]

theorem finalized_fails_iff :
    (decode c = some .update ∨ decode c = some .digest) ∧ s.fin = true ↔
      (!(decide (i = .update) || decide (i = .digest)) || !s.fin) = false := by
  simp [h, -Bool.not_or]

theorem parameters_fails_iff :
    (∃ kpad kbits, decode c = some (.initKeccak kpad kbits) ∧
        ¬ (kbits ∈ [128, 224, 256, 384, 512] ∧
          (kpad = .shake ∨ kpad = .cshake → s.argOutbits.toNat % 8 = 0 ∧ 8 ≤ s.argOutbits.toNat))) ↔
      legalParameters i s = false := by
  simp only [h, ← paramsLegal_iff, Option.some.injEq]
  cases i with
  | initKeccak kpad kbits => simp [legalParameters]
  | _ => simp [legalParameters]

theorem bufferSize_fails_iff :
    decode c = some .digest ∧ s.dstLen.toNat ≠ dsize s ↔
      (!decide (i = .digest) || decide (s.dstLen.toNat = dsize s)) = false := by
  simp [h]

theorem range_fails_iff :
    (∃ j base n reach, decode c = some j ∧ access j s = some (base, n, reach) ∧
        0 < n ∧ 2 ^ s.plat.aw < base + n) ↔
      ((access i s).all fun r => rangeOk s r.1 r.2.1) = false := by
  simp [h, Option.all_eq_false, rangeOk_eq_false_iff]

theorem bus_fails_iff :
    (∃ j base n reach, decode c = some j ∧ access j s = some (base, n, reach) ∧
        ∃ a, base ≤ a ∧ a < base + n ∧ reach a = false) ↔
      ((access i s).all fun r => everyAddress r.2.2 r.1 r.2.1) = false := by
  simp [h, Option.all_eq_false, everyAddress_eq_false_iff]

/-- For a word that decodes, the spec's list is the check that it decodes and the command's requirements. -/
theorem orderedChecks_of_decode :
    orderedChecks c s = (decode c = none, .illegalCmd) :: (requirements i s).map failureOf := by
  simp only [orderedChecks, created_fails_iff h, algorithm_fails_iff h, finalized_fails_iff h, parameters_fails_iff h,
    bufferSize_fails_iff h, range_fails_iff h, bus_fails_iff h]
  rfl

theorem deviceTouched_iff : DeviceTouched c s ↔ accessOrdinary i s = false := by
  simp [DeviceTouched, accessOrdinary, h, Option.all_eq_false, everyAddress_eq_false_iff]

/-- A word that decodes to a command the gate lets through: `CMD` takes the word, and the command is its requirements
and then its effect. -/
theorem writeCmd_of_decode (hgate : s.err ≠ .none → InitWord c) :
    writeCmd c s = checkAll (requirements i s) i { s with cmd := c }
      (if accessOrdinary i s then .next (effect i { s with cmd := c }) else .refused .deviceRegion) := by
  have hgo : s.err = .none ∨ isInit i = true := or_iff_not_imp_left.2 fun he => (initWord_iff h).1 (hgate he)
  simp only [writeCmd, h]
  exact exec_eq_checkAll (s := { s with cmd := c }) hgo

end

/-- The first check that fails is reported, and nothing else but `CMD` changes (R315, R322). -/
theorem writeCmd_of_firstFailing {c : Word} {s : State} {e : Err} (hgate : s.err ≠ .none → InitWord c)
    (hf : FirstFailing (orderedChecks c s) e) : writeCmd c s = .next (raise e c { s with cmd := c }) := by
  cases hd : decode c with
  | none =>
    obtain ⟨-, rfl⟩ | ⟨hlegal, -⟩ := firstFailing_cons hf
    · simp only [writeCmd, hd]
    · exact absurd hd hlegal
  | some i =>
    rw [orderedChecks_of_decode hd] at hf
    obtain ⟨hillegal, -⟩ | ⟨-, hf⟩ := firstFailing_cons hf
    · rw [hd] at hillegal
      cases hillegal
    · rw [writeCmd_of_decode hd s hgate, checkAll_of_firstFailing hf, encode_of_decode hd]

/-- A word that fails no check runs its command, unless the range touches a device region (R69). -/
theorem writeCmd_of_none_failing {c : Word} {s : State} (hgate : s.err ≠ .none → InitWord c)
    (hpass : ∀ q ∈ orderedChecks c s, ¬ q.1) :
    ∃ i, decode c = some i ∧ (s.err = .none ∨ isInit i = true) ∧ writeCmd c s =
      if accessOrdinary i s then .next (effect i { s with cmd := c }) else .refused .deviceRegion := by
  cases hd : decode c with
  | none => exact absurd hd (hpass _ List.mem_cons_self)
  | some i =>
    rw [orderedChecks_of_decode hd, List.forall_mem_cons] at hpass
    refine ⟨i, rfl, or_iff_not_imp_left.2 fun he => (initWord_iff hd).1 (hgate he), ?_⟩
    rw [writeCmd_of_decode hd s hgate, checkAll_of_none_failing hpass.2]

/-! ### How long an error stays (R317) -/

/-- A command given while there is an error keeps it, or is an INIT that succeeds and clears it. -/
theorem exec_keeps_or_clears_error {i : Instr} {s t : State} (h : exec i s = .next t) (he : s.err ≠ .none) :
    (t.err = s.err ∧ t.errcmd = s.errcmd) ∨ (isInit i = true ∧ t.err = .none ∧ t.errcmd = 0) := by
  obtain ⟨a, kb, kp, o, hi, -, -, -, rfl⟩ | ⟨e, -, -, rfl⟩ | ⟨-, -, rfl⟩ | ⟨hn, -⟩ := exec_next h
  · exact .inr ⟨hi, rfl, rfl⟩
  · rw [raise_of_err _ _ _ he]
    exact .inl ⟨rfl, rfl⟩
  · exact .inl ⟨rfl, rfl⟩
  · exact absurd hn he

/-- The same of a word written to `CMD`: an illegal one keeps the error too. -/
theorem writeCmd_keeps_or_clears_error {c : Word} {s t : State} (h : writeCmd c s = .next t) (he : s.err ≠ .none) :
    (t.err = s.err ∧ t.errcmd = s.errcmd) ∨ (InitWord c ∧ t.err = .none ∧ t.errcmd = 0) := by
  obtain ⟨-, rfl⟩ | ⟨i, hd, h⟩ := writeCmd_next h
  · rw [raise_of_err _ _ { s with cmd := c } he]
    exact .inl ⟨rfl, rfl⟩
  · rw [initWord_iff hd]
    exact exec_keeps_or_clears_error (s := { s with cmd := c }) h he

end Sys2Proof.Machine

namespace Sys2Proof.Proofs

open Sys2Proof.Machine Sys2Proof.Claims

/-- Settles O14: a write to `CMD` is taken, and the gate ignores its word. -/
theorem gateIgnoresEverythingButInit : Obligations.GateIgnoresEverythingButInit := by
  intro s c rest hn he hc
  rw [step_nextWrite_legal hn (by decide) (by decide)]
  exact writeCmd_of_err (s := { s with pending := rest }) he hc

/-- Settles O15: the spec's list is the list of the command's own requirements, which it checks in that order. -/
theorem firstFailingCheckIsReported : Obligations.FirstFailingCheckIsReported := by
  intro c s
  refine ⟨fun ⟨he, hc⟩ => writeCmd_of_err he hc, fun hgate => ⟨fun e hf => ?reported, fun hpass hdev => ?completes⟩⟩
  case reported =>
    rw [writeCmd_of_firstFailing hgate hf]
    split
    · rw [raise_of_none _ _ _ ‹_›]
    · rw [raise_of_err _ _ _ ‹_›]
  case completes =>
    obtain ⟨i, hd, hgo, hrun⟩ := writeCmd_of_none_failing hgate hpass
    rw [deviceTouched_iff hd, Bool.not_eq_false] at hdev
    rw [if_pos hdev] at hrun
    exact ⟨_, hrun, effect_err hgo, effect_cmd i _⟩

/-- Settles O51: only a word written to `CMD` and a reset can write `ERR`; the first keeps or clears it. -/
theorem errorsAreStickyUntilInit : Obligations.ErrorsAreStickyUntilInit := by
  intro s t h he
  obtain ⟨-, rfl⟩ | ⟨op, rest, hp, ⟨c, hop, hw⟩ | ⟨rfl, rfl⟩ | ⟨c, rfl, hcut⟩ | ht⟩ := step_next h
  · exact .inl ⟨rfl, rfl⟩
  · have hn : NextWrite s 0x000 4 c rest := by
      obtain rfl | ⟨rfl, hc⟩ := hop
      · exact .inl hp
      · exact .inr ⟨hp, hc⟩
    obtain hkept | ⟨hc, herr, hcmd⟩ := writeCmd_keeps_or_clears_error hw he
    · exact .inl hkept
    · exact .inr ⟨herr, hcmd, .inl ⟨c, rest, hn, hc⟩⟩
  · exact .inr ⟨rfl, rfl, .inr (.inl ⟨rest, hp⟩)⟩
  · rw [cutCommand_next hcut]
    exact .inr ⟨rfl, rfl, .inr (.inr ⟨c, rest, hp⟩)⟩
  · rw [ht]
    exact .inl ⟨rfl, rfl⟩

end Sys2Proof.Proofs
end

section
/-! SUPPORT. The opcode map as a code (R94): a well-formed command and its word determine each other, and no word is
of two rows. -/

namespace Sys2Proof

/-- A command that a word decodes to has fields that fit: `kbits` came from ten bits (R93). -/
theorem wf_of_decode {c : Word} {i : Instr} (h : decode c = some i) : i.wf = true := by
  cases i with
  | initKeccak kpad kbits => exact decide_eq_true ((decode_eq_initKeccak_iff c kpad kbits).1 h).1
  | _ => rfl

/-- The patterns of two rows that a word matches agree on the bits that both rows fix. -/
theorem patterns_agree {c m p m' p' : Word} (h : c &&& m = p) (h' : c &&& m' = p') : p &&& m' = p' &&& m := by
  rw [← h, ← h', BitVec.and_assoc, BitVec.and_assoc, BitVec.and_comm m m']

/-- Any two rows of the map differ in a bit that both fix. -/
theorem opcodeMap_patterns_differ :
    opcodeMap.Pairwise fun r q => r.pattern &&& q.mask ≠ q.pattern &&& r.mask := by decide

end Sys2Proof

namespace Sys2Proof.Proofs

/-- Settles O1: by `decode_encode`, whose one case with operands is INIT.KECCAK, by the fields of its word. -/
theorem encodedCommandDecodesBack : Obligations.EncodedCommandDecodesBack := decode_encode

/-- Settles O2: the word of each row is fixed by the command and the fields it was decoded from. -/
theorem decodedWordEncodesBack : Obligations.DecodedWordEncodesBack :=
  fun _ _ h => ⟨wf_of_decode h, encode_of_decode h⟩

/-- Settles O4: a word of two rows would make their patterns agree on the bits that both fix. -/
theorem opcodeRowsNeverOverlap : Obligations.OpcodeRowsNeverOverlap :=
  opcodeMap_patterns_differ.imp fun hne _ ⟨hr, hq⟩ => hne (patterns_agree hr hq)

/-- Settles O6: the decoder evaluated at each word. -/
theorem sampleWordsDecode : Obligations.SampleWordsDecode := by
  unfold Obligations.SampleWordsDecode
  decide

end Sys2Proof.Proofs
end

section
/-! SUPPORT. Host data memory as a function of its addresses: what any run of stores leaves (R69), that the canonical
form is determined by what it reads, and the host's own stores (R60, R74). -/

namespace Sys2Proof.Machine

/-! ### Runs of stores (R69) -/

/-- Byte stores, the first of the list first. -/
def storeAll (m : Memory) (stores : List (Nat × Byte)) : Memory := stores.foldl (fun m p => m.write p.1 p.2) m

@[simp] theorem storeAll_cons (m : Memory) (p : Nat × Byte) (stores : List (Nat × Byte)) :
    storeAll m (p :: stores) = storeAll (m.write p.1 p.2) stores := rfl

theorem storeAll_append (m : Memory) (xs ys : List (Nat × Byte)) :
    storeAll m (xs ++ ys) = storeAll (storeAll m xs) ys := List.foldl_append

theorem storeAll_wf {m : Memory} (h : m.wf = true) (stores : List (Nat × Byte)) : (storeAll m stores).wf = true := by
  induction stores generalizing m with
  | nil => exact h
  | cons p stores ih => exact ih (Memory.write_wf m p.1 p.2 h)

/-- An address that no store of the run names reads as before. -/
theorem read_storeAll_of_forall_ne {m : Memory} (h : m.wf = true) {stores : List (Nat × Byte)} {a : Nat}
    (ha : ∀ p ∈ stores, p.1 ≠ a) : (storeAll m stores).read a = m.read a := by
  induction stores generalizing m with
  | nil => rfl
  | cons p stores ih =>
    rw [List.forall_mem_cons] at ha
    obtain ⟨hp, ha⟩ := ha
    rw [storeAll_cons, ih (Memory.write_wf m p.1 p.2 h) ha, Memory.read_write _ _ _ _ h, if_neg (Ne.symm hp)]

/-- The last store to an address is what it reads. -/
theorem read_storeAll_last {m : Memory} (h : m.wf = true) (before : List (Nat × Byte)) {after : List (Nat × Byte)}
    {a : Nat} {v : Byte} (ha : ∀ p ∈ after, p.1 ≠ a) : (storeAll m (before ++ (a, v) :: after)).read a = v := by
  have hbefore := storeAll_wf h before
  rw [storeAll_append, storeAll_cons, read_storeAll_of_forall_ne (Memory.write_wf _ _ _ hbefore) ha,
    Memory.read_write _ _ _ _ hbefore, if_pos rfl]

/-! ### The canonical form -/

/-- The first entry of a canonical memory lies at its first address that does not read as the fill. -/
theorem read_head_ne_fill {k : Nat} {w : Byte} {m : Memory} (h : Memory.wf ((k, w) :: m) = true) :
    Memory.read ((k, w) :: m) k ≠ Memory.fill := by
  rw [Memory.read, if_pos rfl]
  exact ((Memory.wf_cons k w m).1 h).2.1

theorem read_below_head {k a : Nat} {w : Byte} {m : Memory} (h : Memory.wf ((k, w) :: m) = true) (ha : a < k) :
    Memory.read ((k, w) :: m) a = Memory.fill := by
  refine Memory.read_below _ _ (List.forall_mem_cons.2 ⟨ha, fun p hp => ?_⟩)
  exact ha.trans (((Memory.wf_cons k w m).1 h).1 p hp)

/-- What a canonical memory reads after its first entry is taken off. -/
theorem read_tail {k : Nat} {w : Byte} {m : Memory} (h : Memory.wf ((k, w) :: m) = true) (a : Nat) :
    m.read a = if a = k then Memory.fill else Memory.read ((k, w) :: m) a := by
  split
  · subst a
    exact Memory.read_below m k ((Memory.wf_cons k w m).1 h).1
  · rw [Memory.read, if_neg (Ne.symm ‹_›)]

/-- Canonical memories that read the same begin at the same address. -/
theorem head_le_of_read_eq {k l : Nat} {v w : Byte} {m n : Memory} (hm : Memory.wf ((k, v) :: m) = true)
    (hn : Memory.wf ((l, w) :: n) = true)
    (h : ∀ a, Memory.read ((k, v) :: m) a = Memory.read ((l, w) :: n) a) : l ≤ k := by
  by_contra hlt
  exact read_head_ne_fill hm (by rw [h, read_below_head hn (by omega)])

/-- Canonical memories that read the same are the same list. -/
theorem memory_ext {m n : Memory} (hm : m.wf = true) (hn : n.wf = true) (h : ∀ a, m.read a = n.read a) : m = n := by
  induction m generalizing n with
  | nil =>
    cases n with
    | nil => rfl
    | cons q n => exact absurd (h q.1).symm (read_head_ne_fill hn)
  | cons p m ih =>
    obtain ⟨k, v⟩ := p
    cases n with
    | nil => exact absurd (h k) (read_head_ne_fill hm)
    | cons q n =>
      obtain ⟨l, w⟩ := q
      obtain rfl : k = l :=
        le_antisymm (head_le_of_read_eq hn hm fun a => (h a).symm) (head_le_of_read_eq hm hn h)
      obtain rfl : v = w := by simpa [Memory.read] using h k
      rw [ih ((Memory.wf_cons _ _ _).1 hm).2.2 ((Memory.wf_cons _ _ _).1 hn).2.2 fun a => by
        rw [read_tail hm, read_tail hn, h]]

/-! ### The host's stores (R60, R69, R74) -/

section
variable {s : State} {a : Nat} {v : Byte} {rest : List HostOp} (hp : s.pending = .store a v :: rest)
include hp

theorem step_store (ha : a < 2 ^ s.plat.aw) (hd : notDevice s.plat a = true) :
    step s = .next { s with pending := rest, mem := s.mem.write a v } := by
  rw [step, hp]
  exact (if_pos ha).trans (if_pos hd)

/-- A store into a device region is refused (R69, U14). -/
theorem step_store_of_device (ha : a < 2 ^ s.plat.aw) (hd : notDevice s.plat a = false) :
    step s = .refused .deviceRegion := by
  rw [step, hp]
  exact (if_pos ha).trans (if_neg (ne_true_of_eq_false hd))

/-- A store past the address space faults (R60). -/
theorem step_store_of_no_address (ha : 2 ^ s.plat.aw ≤ a) : step s = .fault .noSuchAddress := by
  rw [step, hp]
  exact if_neg (Nat.not_lt.2 ha)

end

end Sys2Proof.Machine

namespace Sys2Proof.Proofs

open Sys2Proof.Machine Sys2Proof.Claims

/-- Settles O7: the run is cut at the last store to the address, and the stores after it leave the address alone. -/
theorem lastStoreToAnAddressIsRead : Obligations.LastStoreToAnAddressIsRead := by
  intro m stores a hm
  refine ⟨storeAll_wf hm stores, ?_, read_storeAll_of_forall_ne hm⟩
  rintro before v after rfl ha
  exact read_storeAll_last hm before ha

/-- Settles O8: by induction, since both lists begin at the first address that reads other than the fill. -/
theorem memoriesWithEqualBytesAreEqual : Obligations.MemoriesWithEqualBytesAreEqual := fun _ _ => memory_ext

/-- Settles O16: a word that fails no check is its command's effect in ordinary memory, and is refused elsewhere. -/
theorem deviceRegionsAreRefused : Obligations.DeviceRegionsAreRefused := by
  refine ⟨fun c s hgate hpass hdev => ?_, fun s a v rest => step_store_of_device⟩
  obtain ⟨i, hd, -, hrun⟩ := writeCmd_of_none_failing hgate hpass
  rw [hrun, (deviceTouched_iff hd s).1 hdev, if_neg Bool.false_ne_true]

/-- Settles O17: the store is one write to memory, which changes one byte. -/
theorem hostStoresReachMemory : Obligations.HostStoresReachMemory := by
  intro s a v rest hw hp
  exact ⟨fun ha hd => ⟨_, step_store hp ha hd, rfl, fun b => Memory.read_write _ _ _ _ hw⟩,
    step_store_of_no_address hp⟩

end Sys2Proof.Proofs
end

section
/-! SUPPORT. The idle core, the write to `CMD`, and reads of the registers that show a field or a derived value as it
stands (R96). -/

namespace Sys2Proof.Machine

open Sys2Proof.Claims

/-- With nothing pending the core waits (R336). -/
theorem step_idle {s : State} (h : s.pending = []) : step s = .next s := by rw [step, h]

/-- The next access writes a word to `CMD`. -/
theorem step_writeCmd {s : State} {c : Word} {rest : List HostOp} (h : NextWrite s 0x000 4 c rest) :
    step s = writeCmd c { s with pending := rest } := step_nextWrite_legal h (by decide) (by decide)

theorem writeCmd_of_decode_eq {c : Word} {i : Instr} (h : decode c = some i) (s : State) :
    writeCmd c s = exec i { s with cmd := c } := by simp only [writeCmd, h]

theorem regValue_pending (r : Reg) (s : State) (rest : List HostOp) :
    regValue r { s with pending := rest } = regValue r s := by cases r <;> rfl

theorem regDraws_pending (r : Reg) (s : State) (rest : List HostOp) :
    regDraws r { s with pending := rest } = regDraws r s := by cases r <;> rfl

/-- A read of a register that draws nothing returns its value and changes nothing else (R69). -/
theorem step_read_value {s : State} {off : Nat} (r : Reg) {v : Word} {rest : List HostOp}
    (hp : s.pending = .read off 4 :: rest) (hm : off % 4 = 0) (hl : off < 0x400) (hr : regAt off = r)
    (hd : regDraws r s = 0) (hv : regValue r s = v) : step s = .next { s with pending := rest, rdata := v } := by
  rw [step_read hp hm hl, hr, readReg_of_no_draw (by rw [regDraws_pending, hd]), regValue_pending, hv]

/-- The reserved offsets of R96. -/
theorem regAt_reserved {off : Nat}
    (h : (0x048 ≤ off ∧ off < 0x100) ∨ (0x1C8 ≤ off ∧ off < 0x200) ∨ (0x2A8 ≤ off ∧ off < 0x400)) :
    regAt off = .reserved := by
  have hcontrol : ∀ n < 64, 18 ≤ n → controlReg n = .reserved := by decide
  obtain ⟨h1, h2⟩ | ⟨h1, h2⟩ | ⟨h1, h2⟩ := h
  · rw [regAt, if_pos h2, hcontrol _ (by omega) (by omega)]
  · rw [regAt, if_neg (by omega), if_neg (by omega), if_pos h2]
  · rw [regAt, if_neg (by omega), if_neg (by omega), if_neg (by omega), if_neg (by omega)]

/-- `CHUNK` fits the register that shows it. -/
theorem toNat_chunk (s : State) : (BitVec.ofNat 32 (chunk s)).toNat = chunk s := by
  have : chunk s < 2 ^ 32 := by
    unfold chunk chunkOf
    split <;> omega
  rw [BitVec.toNat_ofNat, Nat.mod_eq_of_lt this]

/-- `BUFLEN` as the register shows it. -/
theorem toNat_buflen (s : State) : (s.buflen.setWidth 32).toNat = s.buflen.toNat := by
  rw [BitVec.toNat_setWidth, Nat.mod_eq_of_lt (by omega)]

/-- The two halves of a dword as numbers. -/
theorem toNat_halves (d : Dword) :
    (d.extractLsb' 0 32).toNat = d.toNat % 2 ^ 32 ∧ (d.extractLsb' 32 32).toNat = d.toNat / 2 ^ 32 := by
  rw [BitVec.extractLsb'_toNat, BitVec.extractLsb'_toNat, Nat.shiftRight_eq_div_pow, Nat.shiftRight_eq_div_pow]
  omega

end Sys2Proof.Machine

namespace Sys2Proof.Proofs

open Sys2Proof.Machine Sys2Proof.Claims

/-- Settles O12: the step matches on the pending accesses. -/
theorem idleCoreDoesNothing : Obligations.IdleCoreDoesNothing := fun _ => step_idle

/-- Settles O13: the access is a write to `CMD`, and the word decodes. -/
theorem stepRunsTheDecodedCommand : Obligations.StepRunsTheDecodedCommand := by
  intro s c i rest hn hd
  rw [step_writeCmd hn, writeCmd_of_decode_eq hd]

/-- Settles O46: each offset is that of a register whose value is the one stated, as a word or as a number. -/
theorem controlRegistersRead : Obligations.ControlRegistersRead := by
  intro s off v rest hp h
  have value {w : Word} {n : Nat} (hw : w.toNat = n) (hv : v.toNat = n) : w = v :=
    BitVec.eq_of_toNat_eq (hw.trans hv.symm)
  obtain h | ⟨rfl, hv⟩ | ⟨rfl, hv⟩ | ⟨rfl, hv⟩ | ⟨rfl, hv⟩ | ⟨rfl, hv⟩ | ⟨hm, rfl, h⟩ := h
  · simp only [List.mem_cons, List.not_mem_nil, or_false, Prod.mk.injEq] at h
    rcases h with ⟨rfl, rfl⟩ | ⟨rfl, rfl⟩ | ⟨rfl, rfl⟩ | ⟨rfl, rfl⟩ | ⟨rfl, rfl⟩ | ⟨rfl, rfl⟩ | ⟨rfl, rfl⟩ |
      ⟨rfl, rfl⟩ | ⟨rfl, rfl⟩ | ⟨rfl, rfl⟩ | ⟨rfl, rfl⟩ <;>
    exact step_read_value _ hp rfl (by decide) rfl rfl rfl
  · exact step_read_value .chunk hp rfl (by decide) rfl rfl (value (toNat_chunk s) hv)
  · exact step_read_value .dsize hp rfl (by decide) rfl rfl (value (toNat_dsize s) hv)
  · exact step_read_value .buflen hp rfl (by decide) rfl rfl (value (toNat_buflen s) hv)
  · exact step_read_value .totalLo hp rfl (by decide) rfl rfl (value (toNat_halves s.total).1 hv)
  · exact step_read_value .totalHi hp rfl (by decide) rfl rfl (value (toNat_halves s.total).2 hv)
  · exact step_read_value .reserved hp hm (by omega) (regAt_reserved h) rfl rfl

end Sys2Proof.Proofs
end

section
/-! SUPPORT. What each command leaves alone (10_state.md R41, 20_memory.md R61), and which steps can write `TOTAL` (R22)
and the configuration (R32, R33). -/

namespace Sys2Proof.Machine

open Sys2Proof.Claims

/-! ### One command -/

/-- `TOTAL` after DIGEST: 0, or kept by an instance that is finalized (R171, R172). -/
theorem digestBody_total (s : State) : (digestBody s).total = 0 ∨ (digestBody s).total = s.total := by
  obtain ⟨-, -, h⟩ | ⟨-, h⟩ := finish_cases (digestStored s)
  · exact .inr ((congrArg State.total h).trans (padMessage_total s))
  · exact .inl (congrArg State.total h)

/-- A command keeps `TOTAL`, or is UPDATE and adds to it, or sets it to 0 (R22). -/
theorem exec_total {i : Instr} {s t : State} (h : exec i s = .next t) :
    t.total = s.total ∨ (i = .update ∧ t.total = s.total + s.srcCnt.setWidth 64) ∨
    ((isInit i = true ∨ i = .reset ∨ i = .digest) ∧ t.total = 0) := by
  obtain ⟨a, kb, kp, o, hi, -, -, -, rfl⟩ | ⟨e, -, -, rfl⟩ | ⟨-, -, rfl⟩ | ⟨-, -, h⟩ := exec_next h
  · exact .inr (.inr ⟨.inl hi, rfl⟩)
  · exact .inl rfl
  · exact .inl rfl
  · obtain ⟨rfl, rfl⟩ | ⟨rfl, -, -, rfl⟩ | ⟨rfl, -, -, -, rfl⟩ | ⟨-, -, rfl⟩ | ⟨-, -, rfl⟩ := h
    · exact .inr (.inr ⟨.inr (.inl rfl), rfl⟩)
    · exact .inr (.inl ⟨rfl, updateBody_total s⟩)
    · exact (digestBody_total s).symm.imp_right fun h0 => .inr ⟨.inr (.inr rfl), h0⟩
    · exact .inl rfl
    · exact .inl rfl

/-- A command keeps the configuration, or is an INIT that succeeded (R32, R33, R317). -/
theorem exec_configuration {i : Instr} {s t : State} (h : exec i s = .next t) :
    (t.alg = s.alg ∧ t.kbits = s.kbits ∧ t.kpad = s.kpad ∧ t.outbits = s.outbits) ∨
    (isInit i = true ∧ t.err = .none ∧ t.alg ≠ .none) := by
  obtain ⟨a, kb, kp, o, hi, ha, -, -, rfl⟩ | ⟨e, -, -, rfl⟩ | ⟨-, -, rfl⟩ | ⟨-, -, h⟩ := exec_next h
  · exact .inr ⟨hi, rfl, ha⟩
  · exact .inl ⟨rfl, rfl, rfl, rfl⟩
  · exact .inl ⟨rfl, rfl, rfl, rfl⟩
  · left
    obtain ⟨-, rfl⟩ | ⟨-, -, -, rfl⟩ | ⟨-, -, -, -, rfl⟩ | ⟨-, -, rfl⟩ | ⟨-, -, rfl⟩ := h
    · exact ⟨rfl, rfl, rfl, rfl⟩
    · rw [updateBody_frame]; exact ⟨rfl, rfl, rfl, rfl⟩
    · rw [digestBody_frame]; exact ⟨rfl, rfl, rfl, rfl⟩
    · exact ⟨rfl, rfl, rfl, rfl⟩
    · exact ⟨rfl, rfl, rfl, rfl⟩

/-! ### One word, one step -/

theorem writeCmd_total {c : Word} {s t : State} (h : writeCmd c s = .next t) :
    t.total = s.total ∨ (decode c = some .update ∧ t.total = s.total + s.srcCnt.setWidth 64) ∨
    ((InitWord c ∨ decode c = some .reset ∨ decode c = some .digest) ∧ t.total = 0) := by
  obtain ⟨-, rfl⟩ | ⟨i, hd, h⟩ := writeCmd_next h
  · exact .inl rfl
  · rw [initWord_iff hd, hd, Option.some.injEq, Option.some.injEq, Option.some.injEq]
    exact exec_total (s := { s with cmd := c }) h

theorem writeCmd_configuration {c : Word} {s t : State} (h : writeCmd c s = .next t) :
    (t.alg = s.alg ∧ t.kbits = s.kbits ∧ t.kpad = s.kpad ∧ t.outbits = s.outbits) ∨
    (InitWord c ∧ t.err = .none ∧ t.alg ≠ .none) := by
  obtain ⟨-, rfl⟩ | ⟨i, hd, h⟩ := writeCmd_next h
  · exact .inl ⟨rfl, rfl, rfl, rfl⟩
  · rw [initWord_iff hd]
    exact exec_configuration (s := { s with cmd := c }) h

/-- A step wrote a word to `CMD`, or reset the core, or left the instance and the error alone. -/
theorem step_next_core {s t : State} (h : step s = .next t) :
    (∃ c rest, NextWrite s 0x000 4 c rest ∧ writeCmd c { s with pending := rest } = .next t) ∨
    (∃ u, t = hardReset u ∧
      ((∃ rest, s.pending = .reset :: rest) ∨ (∃ c rest, s.pending = .cutCommand c :: rest))) ∨
    t = { s with
      pending := t.pending
      argOutbits := t.argOutbits, srcAddr := t.srcAddr, srcAddrHi := t.srcAddrHi, srcOff := t.srcOff
      srcCnt := t.srcCnt, dstAddr := t.dstAddr, dstAddrHi := t.dstAddrHi, dstLen := t.dstLen
      rdata := t.rdata, draws := t.draws, mem := t.mem } := by
  obtain ⟨-, rfl⟩ | ⟨op, rest, hp, ⟨c, hop, hw⟩ | ⟨rfl, rfl⟩ | ⟨c, rfl, hcut⟩ | ht⟩ := step_next h
  · exact .inr (.inr rfl)
  · refine .inl ⟨c, rest, ?_, hw⟩
    obtain rfl | ⟨rfl, hc⟩ := hop
    · exact .inl hp
    · exact .inr ⟨hp, hc⟩
  · exact .inr (.inl ⟨_, rfl, .inl ⟨rest, hp⟩⟩)
  · exact .inr (.inl ⟨_, cutCommand_next hcut, .inr ⟨c, rest, hp⟩⟩)
  · right; right
    rw [ht]

end Sys2Proof.Machine

namespace Sys2Proof.Proofs

open Sys2Proof.Machine Sys2Proof.Claims

/-- Settles O49: each effect's frame; a rejected or ignored command writes `ERR` and `ERRCMD` at most. -/
theorem commandsChangeOnlyTheirOwnState : Obligations.CommandsChangeOnlyTheirOwnState := by
  intro i s t h
  rcases exec_next h with ⟨a, kb, kp, o, hi, -, -, -, rfl⟩ | ⟨e, -, -, rfl⟩ | ⟨-, -, rfl⟩ | ⟨-, -, h⟩
  case inl =>
    have hx := transformAlg_of_isInit hi
    refine ⟨rfl, fun _ => rfl, fun hn => ?_, fun _ => rfl, fun _ => rfl, fun hn => absurd hx hn, fun hu => ?_⟩
    · rw [hi] at hn; cases hn
    · subst hu; cases hi
  case inr.inl | inr.inr.inl =>
    exact ⟨rfl, fun _ => rfl, fun _ => ⟨rfl, rfl, rfl, rfl⟩, fun _ => rfl, fun _ => rfl,
      fun _ => ⟨rfl, rfl, rfl⟩, fun _ => rfl⟩
  case inr.inr.inr =>
    obtain ⟨rfl, rfl⟩ | ⟨rfl, -, -, rfl⟩ | ⟨rfl, -, -, -, rfl⟩ | ⟨hx, hk, rfl⟩ | ⟨rfl, -, rfl⟩ := h
    · exact ⟨rfl, fun _ => rfl, fun _ => ⟨rfl, rfl, rfl, rfl⟩, fun _ => rfl, fun _ => rfl,
        fun hn => absurd rfl hn, nofun⟩
    · rw [updateBody_frame]
      exact ⟨rfl, fun _ => rfl, fun _ => ⟨rfl, rfl, rfl, rfl⟩, by simp [isInit], by simp [isInit, transformAlg],
        fun hn => absurd rfl hn, fun _ => rfl⟩
    · rw [digestBody_frame]
      exact ⟨rfl, fun hn => absurd rfl hn, fun _ => ⟨rfl, rfl, rfl, rfl⟩, by simp [isInit],
        by simp [isInit, transformAlg], fun hn => absurd rfl hn, nofun⟩
    · refine ⟨rfl, fun _ => rfl, fun _ => ⟨rfl, rfl, rfl, rfl⟩, ?_, fun _ => rfl, fun _ => ⟨rfl, rfl, rfl⟩,
        fun _ => rfl⟩
      rintro (hi | rfl | rfl)
      · rw [transformAlg_of_isInit hi] at hx; cases hx
      · cases hx
      · exact absurd (Option.some.inj hx).symm hk
    · exact ⟨rfl, fun _ => rfl, fun _ => ⟨rfl, rfl, rfl, rfl⟩, fun _ => rfl, fun _ => rfl,
        fun _ => ⟨rfl, rfl, rfl⟩, nofun⟩

/-- Settles O50: by what a word written to `CMD` does to `TOTAL`; a reset sets it to 0. -/
theorem totalChangesOnlyAsListed : Obligations.TotalChangesOnlyAsListed := by
  intro s t h hne
  obtain ⟨c, rest, hn, hw⟩ | ⟨u, rfl, ⟨rest, hp⟩ | ⟨c, rest, hp⟩⟩ | ht := step_next_core h
  · exact .inl ⟨c, rest, hn, (writeCmd_total hw).resolve_left hne⟩
  · exact .inr (.inl ⟨rest, hp, rfl⟩)
  · exact .inr (.inr ⟨c, rest, hp, rfl⟩)
  · rw [ht] at hne
    exact absurd rfl hne

/-- Settles O52: by what a word written to `CMD` does to the configuration. -/
theorem configurationIsWrittenOnlyByInit : Obligations.ConfigurationIsWrittenOnlyByInit := by
  intro s t h
  obtain ⟨c, rest, hn, hw⟩ | ⟨u, rfl, hp⟩ | ht := step_next_core h
  · exact (writeCmd_configuration hw).imp_right fun hi => .inl ⟨c, rest, hn, hi⟩
  · exact .inr (.inr hp)
  · rw [ht]
    exact .inl ⟨rfl, rfl, rfl, rfl⟩

/-- Settles O56: past the gates XF.KECCAKF is `keccakF`, whatever `FIN` holds. -/
theorem xfKeccakfAfterFinalizePermutesTheStoredDraw : Obligations.XfKeccakfAfterFinalizePermutesTheStoredDraw :=
  fun s hr hk _ => ⟨_, exec_xfKeccakf_of_running hr hk, rfl, runsKeccakRounds_keccakF s.h⟩

end Sys2Proof.Proofs
end

section
/-! SUPPORT. The invariant: the state after reset has it, and each thing that a step can do keeps it. -/

namespace Sys2Proof.Machine

open Sys2Proof.Claims

/-! ### What the invariant does not speak of -/

/-- The invariant says nothing of the contents of `H` and `BUF`, of `CMD` and the operands that are no addresses, and of
the host's side. -/
theorem Invariant.of_frame {s t : State} (h : Invariant s)
    (e : t = { s with
      h := t.h, buf := t.buf, cmd := t.cmd, argOutbits := t.argOutbits, srcOff := t.srcOff, srcCnt := t.srcCnt
      dstLen := t.dstLen, pending := t.pending, rdata := t.rdata, trace := t.trace, draws := t.draws }) :
    Invariant t := by
  rw [e]
  exact ⟨h.platform, h.memory, h.memoryBound, h.source, h.destination, h.buffer, h.noInstance, h.notKeccak, h.keccak,
    h.finalized, h.errorCommand, h.finalizedError⟩

/-! ### Errors and instances -/

/-- A rejection keeps the invariant; `ERR_FINALIZED` is raised in a finalized instance only (R321). -/
theorem Invariant.raise {s : State} (h : Invariant s) {e : Err} (c : Word) (he : e ≠ .none)
    (hf : e = .finalized → s.fin = true) : Invariant (raise e c s) := by
  by_cases herr : s.err = .none
  case pos =>
    rw [raise_of_none e c s herr]
    exact { h with
      errorCommand := fun h0 => absurd h0 he
      finalizedError := fun h0 => (h.finalized (hf h0)).2.1 }
  case neg => rwa [raise_of_err e c s herr]

theorem zero_lt_chunkOf {a : Alg} {kbits : BitVec 10} (ha : a ≠ .none)
    (hk : a = .keccak → kbitsLegal kbits.toNat = true) : 0 < chunkOf a kbits := by
  have := chunkOf_mem a kbits ha hk
  simp only [List.mem_cons, List.not_mem_nil, or_false] at this
  omega

/-- The legal parameters of INIT.KECCAK are those of a Keccak instance (R33, R34, R104). -/
theorem keccak_parameters {kpad : KPad} {k : Nat} {w : Word} (h : paramsLegal kpad k w = true) :
    kbitsLegal (BitVec.ofNat 10 k).toNat = true ∧
      (if variableOutput kpad then outbitsLegal (keccakOutbits kpad k w) = true
       else keccakOutbits kpad k w = (BitVec.ofNat 10 k).setWidth 32) := by
  obtain ⟨hk, hv⟩ := (paramsLegal_iff kpad k w).1 h
  rw [toNat_kbits hk, kbitsLegal_iff]
  refine ⟨hk, ?_⟩
  unfold keccakOutbits
  split
  · exact (outbitsLegal_iff w).2 (hv ((variableOutput_iff kpad).1 ‹_›))
  · apply BitVec.eq_of_toNat_eq
    rw [BitVec.toNat_setWidth, toNat_kbits hk, BitVec.toNat_ofNat]

/-- A new instance has the invariant when its configuration is legal (R141 to R144). -/
theorem Invariant.createInstance {s : State} (h : Invariant s) {a : Alg} {kb : BitVec 10} {kp : KPad} {o : Word}
    (ha : a ≠ .none) (hn : a ≠ .keccak → kb = 0 ∧ kp = .keccak ∧ o = 0)
    (hk : a = .keccak → kbitsLegal kb.toNat = true ∧
      (if variableOutput kp then outbitsLegal o = true else o = kb.setWidth 32)) :
    Invariant (createInstance a kb kp o s) where
  platform := h.platform
  memory := h.memory
  memoryBound := h.memoryBound
  source := h.source
  destination := h.destination
  buffer := fun _ => zero_lt_chunkOf ha fun e => (hk e).1
  noInstance := fun e => absurd e ha
  notKeccak := hn
  keccak := hk
  finalized := nofun
  errorCommand := fun _ => rfl
  finalizedError := nofun

/-- An empty buffer is below `CHUNK`. -/
theorem Invariant.zero_lt_chunk {s : State} (h : Invariant s) (ha : s.alg ≠ .none) : 0 < chunk s :=
  lt_of_le_of_lt (Nat.zero_le _) (h.buffer ha)

theorem Invariant.instanceReset {s : State} (h : Invariant s) : Invariant (instanceReset s) :=
  { h with
    buffer := h.zero_lt_chunk
    noInstance := fun _ => ⟨rfl, rfl, rfl⟩
    finalized := nofun }

theorem Invariant.finalizeInstance {s : State} (h : Invariant s) (hk : s.alg = .keccak)
    (he : s.plat.keccakReuse = .error) : Invariant (finalizeInstance s) :=
  have ha : s.alg ≠ .none := by rw [hk]; decide
  { h with
    buffer := h.zero_lt_chunk
    noInstance := fun e => absurd e ha
    finalized := fun _ => ⟨hk, he, rfl⟩ }

/-! ### The commands of the engine -/

/-- UPDATE keeps `BUFLEN` below `CHUNK` (I-BUF, R21). -/
theorem Invariant.updateBody {s : State} (h : Invariant s) (ha : s.alg ≠ .none) (hf : s.fin = false) :
    Invariant (updateBody s) := by
  have hbuf : (Machine.updateBody s).buflen.toNat < chunk s :=
    pushBytes_buflen_lt s (s.mem.readBytes (srcBase s) s.srcCnt.toNat) (h.buffer ha) (chunk_le s h)
  rw [updateBody_frame]
  exact { h with
    buffer := fun _ => hbuf
    noInstance := fun e => absurd e ha
    finalized := fun e => absurd (hf.symm.trans e) Bool.false_ne_true }

/-- Bytes stored in a range of the address space keep the memory canonical and bounded. -/
theorem Invariant.storeOutput {s : State} (h : Invariant s) {a : Nat} {out : List Byte}
    (hr : out = [] ∨ a + out.length ≤ 2 ^ s.plat.aw) : Invariant (storeOutput a out s) :=
  { h with
    memory := Memory.writeBytes_wf _ _ _ h.memory
    memoryBound := Memory.writeBytes_bound _ _ _ _ hr h.memoryBound }

/-- The output of DIGEST fits the address space when its range check passes (R70). -/
theorem digestBytes_fit {s : State} (ha : s.alg ≠ .none) (hr : rangeOk s (dstBase s) (dsize s) = true) :
    digestBytes (padMessage s) = [] ∨ dstBase s + (digestBytes (padMessage s)).length ≤ 2 ^ s.plat.aw := by
  have hlen : (digestBytes (padMessage s)).length = dsize s := by
    rw [length_digestBytes _ (by rwa [padMessage_alg]), padMessage_dsize]
  rw [hlen, ← List.length_eq_zero_iff, hlen]
  exact (Nat.eq_zero_or_pos _).imp_right ((rangeOk_iff _ _ _).1 hr)

theorem digestBody_eq_finish (s : State) : digestBody s = finish (digestStored s) := rfl

theorem Invariant.digestBody {s : State} (h : Invariant s) (ha : s.alg ≠ .none)
    (hr : rangeOk s (dstBase s) (dsize s) = true) : Invariant (digestBody s) := by
  have hpad : Invariant (padMessage s) := h.of_frame (by rw [padMessage_frame])
  have hstored : Invariant (digestStored s) := hpad.storeOutput (by rw [padMessage_plat]; exact digestBytes_fit ha hr)
  rw [digestBody_eq_finish]
  obtain ⟨hk, he, hfin⟩ | ⟨-, hfin⟩ := finish_cases (digestStored s) <;> rw [hfin]
  · exact hstored.finalizeInstance hk he
  · exact hstored.instanceReset

/-! ### Commands and words -/

/-- Every command keeps the invariant. -/
theorem Invariant.exec {i : Instr} {s t : State} (h : Invariant s) (hx : exec i s = .next t) : Invariant t := by
  obtain ⟨a, kb, kp, o, -, ha, hn, hk, rfl⟩ | ⟨e, he, hf, rfl⟩ | ⟨-, -, rfl⟩ | ⟨-, ha, hx⟩ := exec_next hx
  · refine h.createInstance ha hn fun e => ?_
    obtain ⟨k, rfl, -, hp, rfl⟩ := hk e
    exact keccak_parameters hp
  · exact h.raise _ he hf
  · exact h
  · obtain ⟨-, rfl⟩ | ⟨-, hf, -, rfl⟩ | ⟨-, -, -, hr, rfl⟩ | ⟨-, -, rfl⟩ | ⟨-, -, rfl⟩ := hx
    · exact h.instanceReset
    · exact h.updateBody ha hf
    · exact h.digestBody ha hr
    · exact h.of_frame (by rw [transformSource_frame])
    · exact h.of_frame rfl

/-- So does every word written to `CMD`. -/
theorem Invariant.writeCmd {c : Word} {s t : State} (h : Invariant s) (hw : writeCmd c s = .next t) :
    Invariant t := by
  have hcmd : Invariant { s with cmd := c } := h.of_frame rfl
  obtain ⟨-, rfl⟩ | ⟨i, -, hx⟩ := writeCmd_next hw
  · exact hcmd.raise c (by decide) nofun
  · exact hcmd.exec hx

/-! ### Address registers (R97) -/

/-- A pair of words is an address below `2^AW` when neither has a bit that is not implemented. -/
theorem address_lt_iff {p : Platform} (lo hi : Word) :
    lo.toNat + 2 ^ 32 * hi.toNat < 2 ^ p.aw ↔ lo.toNat < 2 ^ p.aw ∧ hi.toNat < 2 ^ (p.aw - 32) := by
  have hlo := lo.isLt
  obtain h | h := Nat.le_total p.aw 32
  · have hpow : 2 ^ p.aw ≤ 2 ^ 32 := Nat.pow_le_pow_right (by decide) h
    rw [Nat.sub_eq_zero_of_le h, Nat.pow_zero]
    omega
  · obtain ⟨k, hk⟩ := Nat.exists_eq_add_of_le h
    rw [hk, Nat.add_sub_cancel_left, Nat.pow_add]
    have : 0 < 2 ^ k := by positivity
    omega

theorem toNat_and_addrMaskLo_lt (p : Platform) (v : Word) : (v &&& addrMaskLo p).toNat < 2 ^ p.aw := by
  rw [and_addrMaskLo, BitVec.toNat_ofNat]
  exact lt_of_le_of_lt (Nat.mod_le _ _) (Nat.mod_lt _ (by positivity))

theorem toNat_and_addrMaskHi_lt {p : Platform} (hp : p.legal = true) (v : Word) :
    (v &&& addrMaskHi p).toNat < 2 ^ (p.aw - 32) := by
  rw [and_addrMaskHi hp, BitVec.toNat_ofNat]
  exact lt_of_le_of_lt (Nat.mod_le _ _) (Nat.mod_lt _ (by positivity))

/-- A write to a register keeps the invariant: to `CMD` by its command, to an address by its mask. -/
theorem Invariant.writeReg {r : Reg} {v : Word} {s t : State} (h : Invariant s) (hw : writeReg r v s = .next t) :
    Invariant t := by
  obtain ⟨hsrc, hsrcHi⟩ := (address_lt_iff s.srcAddr s.srcAddrHi).1 h.source
  obtain ⟨hdst, hdstHi⟩ := (address_lt_iff s.dstAddr s.dstAddrHi).1 h.destination
  have hlo := toNat_and_addrMaskLo_lt s.plat v
  have hhi := toNat_and_addrMaskHi_lt h.platform v
  cases r with
  | cmd => exact h.writeCmd hw
  | srcAddr =>
    cases hw
    exact { h with source := (address_lt_iff _ _).2 ⟨hlo, hsrcHi⟩ }
  | srcAddrHi =>
    cases hw
    exact { h with source := (address_lt_iff _ _).2 ⟨hsrc, hhi⟩ }
  | dstAddr =>
    cases hw
    exact { h with destination := (address_lt_iff _ _).2 ⟨hlo, hdstHi⟩ }
  | dstAddrHi =>
    cases hw
    exact { h with destination := (address_lt_iff _ _).2 ⟨hdst, hhi⟩ }
  | _ =>
    cases hw
    exact h.of_frame rfl

/-! ### Hardware reset -/

/-- A core that was reset has the invariant when the platform and the memory are in order (R46, R350). -/
theorem invariant_hardReset {s : State} (hp : s.plat.legal = true) (hw : s.mem.wf = true)
    (hb : ∀ p ∈ s.mem, p.1 < 2 ^ s.plat.aw) : Invariant (hardReset s) where
  platform := hp
  memory := hw
  memoryBound := hb
  source := Nat.two_pow_pos _
  destination := Nat.two_pow_pos _
  buffer := fun h => absurd rfl h
  noInstance := fun _ => ⟨rfl, rfl, rfl⟩
  notKeccak := fun _ => ⟨rfl, rfl, rfl⟩
  keccak := nofun
  finalized := nofun
  errorCommand := fun _ => rfl
  finalizedError := nofun

/-- The bytes of a DIGEST that land before a reset keep the invariant. -/
theorem Invariant.cutWrites {s : State} (h : Invariant s) (d : Nat) {a : Nat} {out : List Byte}
    (hr : out = [] ∨ a + out.length ≤ 2 ^ s.plat.aw) : Invariant (cutWrites d a out s) := by
  induction out generalizing s d a with
  | nil => exact h
  | cons v out ih =>
    have hfit : a + (out.length + 1) ≤ 2 ^ s.plat.aw := hr.resolve_left (List.cons_ne_nil v out)
    rw [Machine.cutWrites]
    split
    · exact ih (h.storeOutput (.inr (by rw [List.length_singleton]; omega))) (d + 1)
        (.inr (by rw [storeOutput_plat]; omega))
    · exact ih h (d + 1) (.inr (by omega))

/-- Whether a word starts a DIGEST that passes its checks, taken apart. -/
theorem digestRuns_iff {c : Word} {s : State} :
    digestRuns c s = true ↔ decode c = some .digest ∧ Running s ∧ s.fin = false ∧ s.dstLen.toNat = dsize s ∧
      rangeOk s (dstBase s) (dsize s) = true ∧ everyAddress (hostWritable s.plat) (dstBase s) (dsize s) = true := by
  simp only [digestRuns, created, Bool.and_eq_true, decide_eq_true_eq, Bool.not_eq_true', Running]
  tauto

/-- The output of the DIGEST that a cut word started, if it did. -/
def cutOutput (c : Word) (s : State) : List Byte := if digestRuns c s then digestBytes (padMessage s) else []

theorem cutOutput_fit (c : Word) (s : State) :
    cutOutput c s = [] ∨ dstBase s + (cutOutput c s).length ≤ 2 ^ s.plat.aw := by
  unfold cutOutput
  split
  · obtain ⟨-, ⟨-, ha⟩, -, -, hr, -⟩ := digestRuns_iff.1 ‹_›
    exact digestBytes_fit ha hr
  · exact .inl rfl

/-- The state that the reset of a cut command finds: the bytes of its output that land are in memory (R350). -/
def afterCut (c : Word) (s : State) : State :=
  cutWrites s.draws (dstBase s) (cutOutput c s) { s with draws := s.draws + (cutOutput c s).length }

/-- A command that was cut, when it answers at all. -/
theorem cutCommand_next_afterCut {c : Word} {s t : State} (h : cutCommand c s = .next t) :
    t = hardReset (afterCut c s) := cutCommand_next h

theorem Invariant.hardReset {s : State} (h : Invariant s) : Invariant (hardReset s) :=
  invariant_hardReset h.platform h.memory h.memoryBound

theorem Invariant.cutCommand {c : Word} {s t : State} (h : Invariant s) (hc : cutCommand c s = .next t) :
    Invariant t := by
  rw [cutCommand_next_afterCut hc]
  have hdraws : Invariant { s with draws := s.draws + (cutOutput c s).length } := h.of_frame rfl
  exact (hdraws.cutWrites s.draws (cutOutput_fit c s)).hardReset

/-! ### One access -/

theorem Invariant.hostStep {op : HostOp} {s t : State} (h : Invariant s) (hs : hostStep op s = .next t) :
    Invariant t := by
  cases op with
  | write offset width v =>
    obtain ⟨-, -, -, hw⟩ := checkAccess_next (show checkAccess _ _ _ = _ from hs)
    exact h.writeReg hw
  | writeBack offset width =>
    obtain ⟨-, -, -, hw⟩ := checkAccess_next (show checkAccess _ _ _ = _ from hs)
    exact h.writeReg hw
  | read offset width =>
    obtain ⟨-, -, -, hr⟩ := checkAccess_next (show checkAccess _ _ _ = _ from hs)
    cases hr
    exact h.of_frame rfl
  | store a v =>
    rw [Machine.hostStep] at hs
    split at hs
    · split at hs
      · cases hs
        exact { h with
          memory := Memory.write_wf _ _ _ h.memory
          memoryBound := Memory.write_bound _ _ _ _ ‹_› h.memoryBound }
      · cases hs
    · cases hs
  | reset =>
    cases hs
    exact h.hardReset
  | cutCommand c => exact h.cutCommand hs

end Sys2Proof.Machine

namespace Sys2Proof.Proofs

open Sys2Proof.Machine Sys2Proof.Claims

/-- Settles O53: every scalar is 0, the memory is empty, and the platform is the default one. -/
theorem invariantHoldsAtReset : Obligations.InvariantHoldsAtReset :=
  (invariant_hardReset (s := State.reset) rfl Memory.wf_nil (by simp [State.reset])).of_frame rfl

/-- Settles O54: nothing pending changes nothing, and every access keeps the invariant. -/
theorem stepKeepsTheInvariant : Obligations.StepKeepsTheInvariant := by
  intro s t h hs
  cases hp : s.pending with
  | nil =>
    rw [step_idle hp] at hs
    cases hs
    exact h
  | cons op rest =>
    rw [step, hp] at hs
    exact Invariant.hostStep (s := { s with pending := rest }) (h.of_frame rfl) hs

end Sys2Proof.Proofs
end

section
/-! SUPPORT. A command cut short by hardware reset (R350): it is refused only for a device region, and of its output
each byte lands or not. -/

namespace Sys2Proof.Machine

open Sys2Proof.Claims

/-! ### When a word completes -/

/-- A list of requirements ends in a next state when what follows it does. -/
theorem checkAll_completes {rs : List (Bool × Err)} {i : Instr} {s u : State} {go : Outcome} (h : go = .next u) :
    ∃ t, checkAll rs i s go = .next t := by
  induction rs with
  | nil => exact ⟨u, h⟩
  | cons r rs ih =>
    obtain ⟨ok, e⟩ := r
    cases ok with
    | false => exact ⟨_, rfl⟩
    | true => exact ih

/-- A word whose command touches no device region is completed, rejected or ignored. -/
theorem writeCmd_completes {c : Word} {s : State} (h : ¬ DeviceTouched c s) : ∃ t, writeCmd c s = .next t := by
  by_cases hgate : s.err ≠ .none → InitWord c
  case pos =>
    cases hd : decode c with
    | none => exact ⟨_, by rw [writeCmd, hd]⟩
    | some i =>
      rw [deviceTouched_iff hd, Bool.not_eq_false] at h
      rw [writeCmd_of_decode hd s hgate]
      exact checkAll_completes (if_pos h)
  case neg =>
    rw [Classical.not_imp] at hgate
    exact ⟨_, writeCmd_of_err hgate.1 hgate.2⟩

/-! ### The cut DIGEST -/

/-- A DIGEST that passes its checks and touches no device region runs. -/
theorem digestOk_of_digestRuns {c : Word} {s : State} (h : digestRuns c s = true) (hdev : ¬ DeviceTouched c s) :
    DigestOk s := by
  obtain ⟨hd, hr, hf, hl, hrange, hbus⟩ := digestRuns_iff.1 h
  rw [deviceTouched_iff hd, Bool.not_eq_false] at hdev
  have hordinary : everyAddress (notDevice s.plat) (dstBase s) (dsize s) = true := hdev
  rw [everyAddress_iff] at hbus hordinary
  exact ⟨hr, hf, hl, (rangeOk_iff _ _ _).1 hrange, fun a h1 h2 => ⟨hbus a h1 h2, hordinary a h1 h2⟩⟩

/-- Padding does not read `CMD`. -/
theorem padMessage_withCmd (s : State) (c : Word) :
    padMessage { s with cmd := c } = { padMessage s with cmd := c } := by
  unfold padMessage padMd
  split
  · rfl
  · split <;> rfl

/-- What the completed DIGEST leaves at an address of its range is the byte of the cut output (R167). -/
theorem writeCmd_digest_read {c : Word} {s : State} (h : digestRuns c s = true) (hdev : ¬ DeviceTouched c s)
    (hw : s.mem.wf = true) {a : Nat} (h1 : dstBase s ≤ a) (h2 : a < dstBase s + dsize s) :
    ∃ u, writeCmd c s = .next u ∧ u.mem.read a = byteAt (cutOutput c s) (a - dstBase s) := by
  have hok := digestOk_of_digestRuns h hdev
  have hd := (digestRuns_iff.1 h).1
  refine ⟨_, (writeCmd_of_decode_eq hd s).trans (exec_digest_of_ok (s := { s with cmd := c }) hok), ?_⟩
  rw [digestBody_read (s := { s with cmd := c }) hw hok.1.2, if_pos ⟨h1, h2⟩, padMessage_withCmd, cutOutput,
    if_pos h]
  rfl

/-- A byte of memory after a cut command: as it was, or, in the range of a DIGEST, the digest byte. -/
theorem afterCut_read {c : Word} {s : State} (hdev : ¬ DeviceTouched c s) (hw : s.mem.wf = true) (a : Nat) :
    (afterCut c s).mem.read a = s.mem.read a ∨
    (decode c = some .digest ∧ dstBase s ≤ a ∧ a < dstBase s + dsize s ∧
      ∃ u, writeCmd c s = .next u ∧ (afterCut c s).mem.read a = u.mem.read a) := by
  obtain hold | ⟨h1, h2, hread⟩ := cutWrites_read s.draws (dstBase s) a (cutOutput c s)
    { s with draws := s.draws + (cutOutput c s).length } hw
  · exact .inl hold
  · by_cases hruns : digestRuns c s = true
    case pos =>
      obtain ⟨hd, ⟨-, ha⟩, -⟩ := digestRuns_iff.1 hruns
      have hlen : (cutOutput c s).length = dsize s := by
        rw [cutOutput, if_pos hruns, length_digestBytes _ (by rwa [padMessage_alg]), padMessage_dsize]
      rw [hlen] at h2
      obtain ⟨u, hu, hbyte⟩ := writeCmd_digest_read hruns hdev hw h1 h2
      exact .inr ⟨hd, h1, h2, u, hu, hread.trans hbyte.symm⟩
    case neg =>
      rw [cutOutput, if_neg hruns, List.length_nil] at h2
      omega

theorem afterCut_frame (c : Word) (s : State) :
    afterCut c s = { s with
      mem := (afterCut c s).mem, trace := (afterCut c s).trace, draws := (afterCut c s).draws } := by
  rw [afterCut, cutWrites_frame]

theorem cutCommand_of_completes {c : Word} {s u : State} (h : writeCmd c s = .next u) :
    cutCommand c s = .next (hardReset (afterCut c s)) := by
  rw [cutCommand, h]
  rfl

/-- Whether a word touches a device region does not hang on what else is pending. -/
theorem deviceTouched_pending (c : Word) (s : State) (rest : List HostOp) :
    DeviceTouched c { s with pending := rest } ↔ DeviceTouched c s := by
  cases hd : decode c with
  | none => simp [DeviceTouched, hd]
  | some i =>
    rw [deviceTouched_iff hd, deviceTouched_iff hd]
    rfl

end Sys2Proof.Machine

namespace Sys2Proof.Proofs

open Sys2Proof.Machine Sys2Proof.Claims

/-- Settles O48: the word completes, so the cut one resets the core, after those bytes of its output that land. -/
theorem cutCommandLeavesOldOrDigestBytes : Obligations.CutCommandLeavesOldOrDigestBytes := by
  intro s c rest hw hp hdev
  rw [← deviceTouched_pending c s rest] at hdev
  obtain ⟨u, hu⟩ := writeCmd_completes hdev
  have hrun : step s = cutCommand c { s with pending := rest } := by rw [step, hp]; rfl
  refine ⟨_, hrun.trans (cutCommand_of_completes hu), coreReset_hardReset _, ?_, ?_,
    afterCut_read (s := { s with pending := rest }) hdev hw⟩
  · rw [hardReset_plat, afterCut_frame]
  · rw [hardReset_pending, afterCut_frame]

end Sys2Proof.Proofs
end

section
/-! SUPPORT. Noninterference: dead words of `H` (R27) and buffer bytes at or above `BUFLEN` (R29) reach nothing that
can be seen. Two states that differ only there are `s` and `s` with other words and bytes. -/

namespace Sys2Proof.Machine

open Sys2Proof.Claims

/-! ### The two relations -/

/-- A state with other contents of `H` and `BUF`. -/
def withStorage (s : State) (g : Vector Word 50) (b : Vector Byte 168) : State := { s with h := g, buf := b }

theorem sameVisible_iff {s t : State} :
    SameVisible s t ↔ ∃ g b, t = withStorage s g b ∧ (∀ i (hi : i < 50), i < liveCount s.alg → g[i] = s.h[i]) ∧
      ∀ k (hk : k < 168), k < s.buflen.toNat → b[k] = s.buf[k] := by
  constructor
  · rintro ⟨e, hh, hb⟩
    exact ⟨t.h, t.buf, e, hh, hb⟩
  · rintro ⟨g, b, rfl, hh, hb⟩
    exact ⟨rfl, hh, hb⟩

theorem SameVisible.refl (s : State) : SameVisible s s := ⟨rfl, fun _ _ _ => rfl, fun _ _ _ => rfl⟩

theorem SameVisible.next {s t : State} (h : SameVisible s t) : SameOutcome (.next s) (.next t) := h

theorem sameOutcome_cases {o o' : Outcome} (h : SameOutcome o o') :
    (∃ s t, o = .next s ∧ o' = .next t ∧ SameVisible s t) ∨ (∃ a, o = .fault a ∧ o' = .fault a) ∨
    (∃ a, o = .refused a ∧ o' = .refused a) := by
  cases o with
  | next s =>
    cases o' with
    | next t => exact .inl ⟨s, t, rfl, rfl, h⟩
    | fault _ | refused _ => exact h.elim
  | fault a =>
    cases o' with
    | fault b => exact .inr (.inl ⟨a, rfl, congrArg _ (Eq.symm h)⟩)
    | next _ | refused _ => exact h.elim
  | refused a =>
    cases o' with
    | refused b => exact .inr (.inr ⟨a, rfl, congrArg _ (Eq.symm h)⟩)
    | next _ | fault _ => exact h.elim

/-- States with empty buffers and the same live words look the same. -/
theorem sameVisible_of_empty {s t : State} (e : t = { s with h := t.h, buf := t.buf })
    (hh : ∀ i (hi : i < 50), i < liveCount s.alg → t.h[i] = s.h[i]) (hb : s.buflen = 0) : SameVisible s t :=
  ⟨e, hh, fun k _ hk => by rw [hb] at hk; exact absurd hk (Nat.not_lt_zero k)⟩

/-- RESET leaves no live word as it was, and an empty buffer (R145). -/
theorem sameVisible_instanceReset (s : State) (g : Vector Word 50) (b : Vector Byte 168) :
    SameVisible (instanceReset s) (instanceReset (withStorage s g b)) := by
  refine sameVisible_of_empty rfl (fun i hi hl => ?_) rfl
  rw [instanceReset_word _ hi, instanceReset_word _ hi]
  exact (if_pos hl).trans (if_pos hl).symm

section
variable {s t : State} (h : SameVisible s t)
include h

/-! ### What is read of hidden storage: nothing -/

theorem SameVisible.liveBytes (hn : s.buflen.toNat ≤ 168) : liveBytes t = liveBytes s := by
  obtain ⟨g, b, rfl, -, hb⟩ := sameVisible_iff.1 h
  exact bufBlock_congr _ _ _ hn hb

/-- All words of a Keccak instance are live (R23). -/
theorem SameVisible.h_of_keccak (hk : s.alg = .keccak) : t.h = s.h :=
  words_ext _ _ fun i hi => h.2.1 i hi (by rw [hk]; exact hi)

theorem SameVisible.wordAt {i : Nat} (hi : i < liveCount s.alg) : wordAt t.h i = wordAt s.h i := by
  have := liveCount_le s.alg
  rw [wordAt_eq _ _ (by omega), wordAt_eq _ _ (by omega), h.2.1 i _ hi]

theorem SameVisible.visibleByte (k : Nat) : visibleByte t k = visibleByte s k := by
  obtain ⟨g, b, rfl, -, hb⟩ := sameVisible_iff.1 h
  by_cases hk : k < 168
  · rw [visibleByte_eq _ hk, visibleByte_eq _ hk]
    exact ite_congr rfl (hb k hk) fun _ => rfl
  · rw [Machine.visibleByte, Machine.visibleByte, dif_neg hk, dif_neg hk]

/-- Every register reads the same: `HV` shows live words, and `BUFW` bytes below `BUFLEN` (R99). -/
theorem SameVisible.regValue (r : Reg) : regValue r t = regValue r s := by
  cases r with
  | hv i =>
    have hw := h.wordAt (i := i)
    obtain ⟨g, b, rfl, -, -⟩ := sameVisible_iff.1 h
    exact ite_congr rfl hw fun _ => rfl
  | bufw k => simp only [Machine.regValue, bufWord, h.visibleByte]
  | _ =>
    obtain ⟨g, b, rfl, -, -⟩ := sameVisible_iff.1 h
    rfl

theorem SameVisible.readReg (r : Reg) : SameVisible (readReg r s) (readReg r t) := by
  have hv := h.regValue r
  obtain ⟨g, b, rfl, hh, hb⟩ := sameVisible_iff.1 h
  refine ⟨?_, hh, hb⟩
  unfold Machine.readReg
  rw [hv]
  cases r <;> rfl

/-! ### Rejection -/

theorem SameVisible.raise (e : Err) (c : Word) : SameVisible (raise e c s) (raise e c t) := by
  obtain ⟨g, b, rfl, hh, hb⟩ := sameVisible_iff.1 h
  exact ⟨rfl, hh, hb⟩

/-- The same requirements before effects that look the same, when all are met. -/
theorem SameVisible.checkAll {rs : List (Bool × Err)} {i : Instr} {go go' : Outcome}
    (hgo : (∀ r ∈ rs, r.1 = true) → SameOutcome go go') :
    SameOutcome (checkAll rs i s go) (checkAll rs i t go') := by
  induction rs with
  | nil => exact hgo fun r hr => absurd hr List.not_mem_nil
  | cons r rs ih =>
    obtain ⟨ok, e⟩ := r
    cases ok with
    | false => exact (h.raise e (encode i)).next
    | true => exact ih fun hrs => hgo (List.forall_mem_cons.2 ⟨rfl, hrs⟩)

/-! ### INIT -/

/-- A new instance takes nothing from the old one's storage (R141 to R144). -/
theorem SameVisible.createInstance (a : Alg) (kb : BitVec 10) (kp : KPad) (o : Word) :
    SameVisible (createInstance a kb kp o s) (createInstance a kb kp o t) := by
  obtain ⟨g, b, rfl, -, -⟩ := sameVisible_iff.1 h
  exact sameVisible_of_empty rfl (fun _ _ _ => rfl) rfl

/-! ### UPDATE -/

/-- One byte: below `CHUNK` it joins the live bytes, and at `CHUNK` the whole block is live. -/
theorem SameVisible.pushByte (x : Byte) (hlt : s.buflen.toNat < chunk s) (hn : chunk s ≤ 168) :
    SameVisible (pushByte s x) (pushByte t x) := by
  have hlive := h.liveBytes (by omega)
  obtain ⟨g, b, rfl, hh, hb⟩ := sameVisible_iff.1 h
  rw [liveBytes_eq_bufBlock, liveBytes_eq_bufBlock] at hlive
  by_cases hfull : s.buflen.toNat + 1 = chunk s
  case pos =>
    obtain ⟨hs, hs0⟩ := pushByte_full s x hfull hn
    obtain ⟨ht, -⟩ := pushByte_full (withStorage s g b) x hfull hn
    refine sameVisible_of_empty rfl (fun i hi hl => ?_) hs0
    rw [ht, hs, hlive]
    exact absorbBlock_live _ _ _ _ _ hh i hi hl
  case neg =>
    obtain ⟨hs, hslen, -⟩ := pushByte_part s x (by omega) hn
    obtain ⟨ht, -, -⟩ := pushByte_part (withStorage s g b) x (by exact Nat.lt_of_le_of_ne hlt hfull) hn
    refine ⟨rfl, fun i hi hl => ?_, fun k hk hkl => ?_⟩
    · simp only [ht, hs]
      exact hh i hi hl
    · rw [hslen] at hkl
      simp only [pushByte_buf, Vector.getElem_setIfInBounds]
      show (if s.buflen.toNat = k then x else b[k]) = _
      split
      · rfl
      · exact hb k hk (by omega)

end

theorem SameVisible.pushBytes {s t : State} (h : SameVisible s t) (xs : List Byte) (hlt : s.buflen.toNat < chunk s)
    (hn : chunk s ≤ 168) : SameVisible (pushBytes s xs) (pushBytes t xs) := by
  induction xs generalizing s t with
  | nil => exact h
  | cons x xs ih =>
    refine ih (h.pushByte x hlt hn) ?_ ?_ <;> rw [pushByte_chunk]
    · exact pushByte_buflen_lt s x hlt hn
    · exact hn

theorem SameVisible.updateBody {s t : State} (h : SameVisible s t) (hlt : s.buflen.toNat < chunk s)
    (hn : chunk s ≤ 168) : SameVisible (updateBody s) (updateBody t) := by
  have hpush := h.pushBytes (s.mem.readBytes (srcBase s) s.srcCnt.toNat) hlt hn
  obtain ⟨g, b, rfl, -, -⟩ := sameVisible_iff.1 h
  obtain ⟨e, hh, hb⟩ := hpush
  refine ⟨?_, hh, hb⟩
  show logReads _ _ { Machine.pushBytes (withStorage s g b) (s.mem.readBytes (srcBase s) s.srcCnt.toNat) with
    total := s.total + s.srcCnt.setWidth 64 } = _
  rw [e]
  rfl

/-! ### DIGEST -/

/-- The output of a Keccak instance: the squeeze of the padded state. -/
theorem digestBytes_of_keccak {s : State} (hk : s.alg = .keccak) :
    digestBytes (padMessage s) = squeeze (chunk s) (dsize s) 0 (padKeccak s).h := by
  rw [digestBytes, padMessage, if_pos hk]
  exact if_pos hk

/-- The output of the MD family shows live words only (R166). -/
theorem extractMd_congr {a : Alg} (ha : IsMd a) {g h : Vector Word 50}
    (e : ∀ i (hi : i < 50), i < liveCount a → g[i] = h[i]) : extractMd a g = extractMd a h := by
  have hlen (v : Vector Word 50) : (extractMd a v).length = 4 * liveCount a := by
    obtain rfl | rfl | rfl := isMd_cases ha <;> rfl
  refine byteList_ext _ _ ((hlen g).trans (hlen h).symm) fun k hk => ?_
  rw [hlen] at hk
  rw [byteAt_extractMd ha _ hk, byteAt_extractMd ha _ hk, mdDigestByte_congr a e hk]

/-- The digest is made of the live words and the live bytes. -/
theorem SameVisible.digestBytes {s t : State} (h : SameVisible s t) (hinv : Invariant s) (ha : s.alg ≠ .none) :
    digestBytes (padMessage t) = digestBytes (padMessage s) := by
  have hlt := hinv.buffer ha
  have hn := chunk_le s hinv
  have hlive := h.liveBytes (by omega)
  have hwords := h.h_of_keccak
  obtain ⟨g, b, rfl, hh, -⟩ := sameVisible_iff.1 h
  by_cases hk : s.alg = .keccak
  case pos =>
    rw [digestBytes_of_keccak (s := withStorage s g b) hk, digestBytes_of_keccak hk,
      padKeccak_h (s := withStorage s g b) hk hlt hn, padKeccak_h hk hlt hn, hlive, hwords hk]
    rfl
  case neg =>
    have hmd : IsMd s.alg := ⟨ha, hk⟩
    have hc := chunk_md s ha hk
    rw [hc] at hlt
    rw [digestBytes_of_md (s := withStorage s g b) hmd, digestBytes_of_md hmd,
      padMd_h (s := withStorage s g b) hc hlt, padMd_h hc hlt, hlive]
    exact extractMd_congr hmd (absorbAll_live _ _ _ _ _ _ hh)

/-- Padding writes `H` and `BUF` only. -/
theorem padMessage_withStorage (s : State) (g : Vector Word 50) (b : Vector Byte 168) :
    ∃ g' b', padMessage (withStorage s g b) = withStorage (padMessage s) g' b' := by
  rw [padMessage_frame s]
  exact ⟨_, _, padMessage_frame _⟩

/-- The end of DIGEST hides all that it kept of `H`, and empties the buffer (R171, R172). -/
theorem sameVisible_finish (s : State) (g : Vector Word 50) (b : Vector Byte 168) :
    SameVisible (finish s) (finish (withStorage s g b)) := by
  obtain ⟨hk, he, hs⟩ | ⟨hnot, hs⟩ := finish_cases s
  · rw [hs, show finish (withStorage s g b) = finalizeInstance (withStorage s g b) from if_pos ⟨hk, he⟩]
    exact sameVisible_of_empty rfl (fun _ _ _ => rfl) rfl
  · rw [hs, show finish (withStorage s g b) = instanceReset (withStorage s g b) from if_neg hnot]
    exact sameVisible_instanceReset s g b

theorem SameVisible.digestBody {s t : State} (h : SameVisible s t) (hinv : Invariant s) (ha : s.alg ≠ .none) :
    SameVisible (digestBody s) (digestBody t) := by
  have hbytes := h.digestBytes hinv ha
  obtain ⟨g, b, rfl, -, -⟩ := sameVisible_iff.1 h
  obtain ⟨g', b', hpad⟩ := padMessage_withStorage s g b
  have hstored : digestStored (withStorage s g b) = withStorage (digestStored s) g' b' := by
    rw [digestStored, hbytes, hpad]
    rfl
  rw [digestBody_eq_finish, digestBody_eq_finish, hstored]
  exact sameVisible_finish _ _ _

/-! ### XF -/

theorem SameVisible.transformSource {s t : State} (h : SameVisible s t) :
    SameVisible (transformSource s) (transformSource t) := by
  obtain ⟨g, b, rfl, hh, hb⟩ := sameVisible_iff.1 h
  exact ⟨rfl, absorbBlock_live _ _ _ _ _ hh, hb⟩

theorem SameVisible.keccakF {s t : State} (h : SameVisible s t) (hk : s.alg = .keccak) :
    SameVisible { s with h := keccakF s.h } { t with h := keccakF t.h } := by
  have hwords := h.h_of_keccak hk
  obtain ⟨g, b, rfl, -, hb⟩ := sameVisible_iff.1 h
  exact ⟨rfl, fun i hi _ => by simp only [hwords], hb⟩

/-! ### Commands and words -/

/-- What a command does when its requirements are met. -/
theorem SameVisible.effect {s t : State} (h : SameVisible s t) (hinv : Invariant s) {i : Instr}
    (hreq : ∀ r ∈ requirements i s, r.1 = true) : SameVisible (effect i s) (effect i t) := by
  simp only [requirements, List.forall_mem_cons] at hreq
  obtain ⟨hcreated, halg, -⟩ := hreq
  have hargs : t.argOutbits = s.argOutbits := by rw [h.1]
  cases i with
  | initMd5 | initSha1 | initSha256 => exact h.createInstance _ _ _ _
  | initKeccak kpad kbits =>
    show SameVisible (keccakInstance kpad kbits s) (keccakInstance kpad kbits t)
    rw [keccakInstance, keccakInstance, hargs]
    exact h.createInstance _ _ _ _
  | update => exact h.updateBody (hinv.buffer (of_decide_eq_true hcreated)) (chunk_le s hinv)
  | digest => exact h.digestBody hinv (of_decide_eq_true hcreated)
  | reset =>
    obtain ⟨g, b, rfl, -, -⟩ := sameVisible_iff.1 h
    exact sameVisible_instanceReset s g b
  | xfMd5 | xfSha1 | xfSha256 => exact h.transformSource
  | xfKeccakf => exact h.keccakF (of_decide_eq_true halg)

/-- The checks of a command read nothing hidden. -/
theorem requirements_withStorage (i : Instr) (s : State) (g : Vector Word 50) (b : Vector Byte 168) :
    requirements i (withStorage s g b) = requirements i s := by cases i <;> rfl

theorem accessOrdinary_withStorage (i : Instr) (s : State) (g : Vector Word 50) (b : Vector Byte 168) :
    accessOrdinary i (withStorage s g b) = accessOrdinary i s := by cases i <;> rfl

theorem SameVisible.exec {s t : State} (h : SameVisible s t) (hinv : Invariant s) (i : Instr) :
    SameOutcome (exec i s) (exec i t) := by
  have heffect := h.effect hinv (i := i)
  have herr : t.err = s.err := by rw [h.1]
  by_cases hgate : s.err = .none ∨ isInit i = true
  case pos =>
    rw [exec_eq_checkAll hgate, exec_eq_checkAll (herr ▸ hgate)]
    obtain ⟨g, b, rfl, -, -⟩ := sameVisible_iff.1 h
    rw [requirements_withStorage, accessOrdinary_withStorage]
    refine h.checkAll fun hreq => ?_
    split
    · exact (heffect hreq).next
    · rfl
  case neg =>
    obtain ⟨he, hi⟩ := not_or.1 hgate
    rw [Bool.not_eq_true] at hi
    rw [exec_of_err he hi, exec_of_err (herr ▸ he) hi]
    exact h.next

theorem SameVisible.withCmd {s t : State} (h : SameVisible s t) (c : Word) :
    SameVisible { s with cmd := c } { t with cmd := c } := by
  obtain ⟨g, b, rfl, hh, hb⟩ := sameVisible_iff.1 h
  exact ⟨rfl, hh, hb⟩

theorem SameVisible.writeCmd {s t : State} (h : SameVisible s t) (hinv : Invariant s) (c : Word) :
    SameOutcome (writeCmd c s) (writeCmd c t) := by
  unfold Machine.writeCmd
  cases decode c with
  | none => exact ((h.withCmd c).raise _ _).next
  | some i => exact (h.withCmd c).exec (hinv.of_frame rfl) i

/-! ### Accesses -/

theorem SameVisible.writeReg {s t : State} (h : SameVisible s t) (hinv : Invariant s) (r : Reg) (v : Word) :
    SameOutcome (writeReg r v s) (writeReg r v t) := by
  have hcmd := h.writeCmd hinv v
  obtain ⟨g, b, rfl, hh, hb⟩ := sameVisible_iff.1 h
  cases r with
  | cmd => exact hcmd
  | _ => exact ⟨rfl, hh, hb⟩

theorem sameOutcome_checkAccess {o o' : Outcome} (h : SameOutcome o o') (offset width : Nat) :
    SameOutcome (checkAccess offset width o) (checkAccess offset width o') := by
  unfold checkAccess
  split
  · split
    · exact h
    · rfl
  · rfl

/-- The bytes of a cut DIGEST land in the same places whatever is hidden. -/
theorem cutWrites_withStorage (d a : Nat) (out : List Byte) (s : State) (g : Vector Word 50) (b : Vector Byte 168) :
    cutWrites d a out (withStorage s g b) = withStorage (cutWrites d a out s) g b := by
  induction out generalizing d a s with
  | nil => rfl
  | cons v out ih =>
    rw [cutWrites, cutWrites, ← ih]
    split <;> rfl

theorem SameVisible.cutOutput {s t : State} (h : SameVisible s t) (hinv : Invariant s) (c : Word) :
    cutOutput c t = cutOutput c s := by
  have hbytes := h.digestBytes hinv
  obtain ⟨g, b, rfl, -, -⟩ := sameVisible_iff.1 h
  refine ite_congr rfl (fun hruns => ?_) fun _ => rfl
  exact hbytes (digestRuns_iff.1 hruns).2.1.2

theorem SameVisible.afterCut {s t : State} (h : SameVisible s t) (hinv : Invariant s) (c : Word) :
    ∃ g b, afterCut c t = withStorage (afterCut c s) g b := by
  have hout := h.cutOutput hinv c
  obtain ⟨g, b, rfl, -, -⟩ := sameVisible_iff.1 h
  rw [Machine.afterCut, Machine.afterCut, hout]
  exact ⟨g, b, cutWrites_withStorage _ _ _ { s with draws := s.draws + (Machine.cutOutput c s).length } g b⟩

/-- A core that was cut short and reset keeps nothing of `H` and `BUF`. -/
theorem SameVisible.cutCommand {s t : State} (h : SameVisible s t) (hinv : Invariant s) (c : Word) :
    SameOutcome (cutCommand c s) (cutCommand c t) := by
  obtain ⟨u, v, hu, hv, -⟩ | ⟨e, hu, hv⟩ | ⟨e, hu, hv⟩ := sameOutcome_cases (h.writeCmd hinv c)
  · obtain ⟨g, b, hcut⟩ := h.afterCut hinv c
    rw [cutCommand_of_completes hu, cutCommand_of_completes hv, hcut]
    exact SameVisible.refl _
  · rw [Machine.cutCommand, Machine.cutCommand, hu, hv]
    rfl
  · rw [Machine.cutCommand, Machine.cutCommand, hu, hv]
    rfl

theorem SameVisible.hostStep {s t : State} (h : SameVisible s t) (hinv : Invariant s) (op : HostOp) :
    SameOutcome (hostStep op s) (hostStep op t) := by
  cases op with
  | write offset width v => exact sameOutcome_checkAccess (h.writeReg hinv _ v) offset width
  | writeBack offset width =>
    have hr : t.rdata = s.rdata := by rw [h.1]
    rw [hostStep_writeBack, hostStep_writeBack, hr]
    exact sameOutcome_checkAccess (h.writeReg hinv _ _) offset width
  | read offset width => exact sameOutcome_checkAccess (h.readReg _).next offset width
  | store a v =>
    obtain ⟨g, b, rfl, hh, hb⟩ := sameVisible_iff.1 h
    rw [Machine.hostStep, Machine.hostStep]
    show SameOutcome (if a < 2 ^ s.plat.aw then _ else _) (if a < 2 ^ s.plat.aw then _ else _)
    split
    · show SameOutcome (if notDevice s.plat a then _ else _) (if notDevice s.plat a then _ else _)
      split
      · exact ⟨rfl, hh, hb⟩
      · rfl
    · rfl
  | reset =>
    obtain ⟨g, b, rfl, -, -⟩ := sameVisible_iff.1 h
    exact SameVisible.refl _
  | cutCommand c => exact h.cutCommand hinv c

theorem SameVisible.withPending {s t : State} (h : SameVisible s t) (rest : List HostOp) :
    SameVisible { s with pending := rest } { t with pending := rest } := by
  obtain ⟨g, b, rfl, hh, hb⟩ := sameVisible_iff.1 h
  exact ⟨rfl, hh, hb⟩

end Sys2Proof.Machine

namespace Sys2Proof.Proofs

open Sys2Proof.Machine Sys2Proof.Claims

/-- Settles O55: both states take the same access, and each access reads nothing hidden. -/
theorem hiddenStorageNeverShows : Obligations.HiddenStorageNeverShows := by
  intro s t hinv h
  have hp : t.pending = s.pending := by rw [h.1]
  cases hs : s.pending with
  | nil =>
    rw [step_idle hs, step_idle (hp.trans hs)]
    exact h.next
  | cons op rest =>
    rw [step, step, hp, hs]
    exact (h.withPending rest).hostStep (hinv.of_frame rfl) op

end Sys2Proof.Proofs
end

section
/-! SUPPORT. Streams: INIT, any UPDATE commands and DIGEST on one instance, whose output is that of the reference on the
whole message (R146, R160, R162, R284). -/

namespace Sys2Proof.Machine

open Sys2Proof.Claims

/-! ### What a run of UPDATEs leaves alone -/

/-- A run of UPDATEs that pass their checks writes the engine, `TOTAL`, the source operands and the trace only. -/
theorem updatesTo_frame {ps : List Piece} {s t : State} (hr : Running s) (hf : s.fin = false)
    (hs : ∀ p ∈ ps, SourceOk (withPiece p s) p.cnt.toNat) (h : UpdatesTo ps s t) :
    t = { s with
      h := t.h, buf := t.buf, buflen := t.buflen, total := t.total, srcAddr := t.srcAddr, srcAddrHi := t.srcAddrHi
      srcOff := t.srcOff, srcCnt := t.srcCnt, trace := t.trace } := by
  induction ps generalizing s with
  | nil => rw [show t = s from h]
  | cons p ps ih =>
    obtain ⟨u, hu, h⟩ := h
    have hframe : u = { withPiece p s with
        h := u.h, buf := u.buf, buflen := u.buflen, total := u.total, trace := u.trace } := by
      rw [exec_update_of_ok (s := withPiece p s) hr hf (hs p List.mem_cons_self), Host.Outcome.next.injEq] at hu
      rw [← hu, updateBody_frame]
    have hrun : Running u := by rw [hframe]; exact hr
    have hfin : u.fin = false := by rw [hframe]; exact hf
    have hok : ∀ q ∈ ps, SourceOk (withPiece q u) q.cnt.toNat := fun q hq => by
      rw [hframe]
      exact hs q (List.mem_cons_of_mem p hq)
    rw [ih hrun hfin hok h, hframe]
    rfl

/-! ### The stream -/

/-- UPDATE's loop over `data` from an empty buffer. -/
theorem buffered_pushBytes {s : State} (hb : s.buflen = 0) (h0 : 0 < chunk s) (hn : chunk s ≤ 168)
    (data : List Byte) : Buffered s.h data (pushBytes s data) := by
  have hlen : s.buflen.toNat = 0 := by rw [hb]; rfl
  have hlive : liveBytes s = [] := by rw [liveBytes, hlen, List.take_zero]
  have hstart := buffered_start (s := s) (by omega) hn
  rw [hlive] at hstart
  exact hstart.pushBytes h0 hn data

/-- The stream is in the engine, so any state with the same engine holds it. -/
theorem Buffered.of_sameEngine {h0 : Vector Word 50} {data : List Byte} {s t : State} (hb : Buffered h0 data s)
    (e : SameEngine t s) : Buffered h0 data t := by
  obtain ⟨ha, hk, hh, hbuf, hl⟩ := e
  obtain ⟨habs, hlive, hlen⟩ := hb
  have hc : chunk t = chunk s := by rw [chunk, ha, hk]; rfl
  exact ⟨by rw [hh, ha, hc, habs], by rw [liveBytes, hbuf, hl, hc]; exact hlive, by rw [hl, hc, hlen]⟩

/-- UPDATEs and a DIGEST that pass their checks complete on a new instance. The state that DIGEST finds has the message
in its engine, and differs from the new instance there, in `TOTAL`, the source operands and the trace only. -/
theorem stream_run {t : State} {ps : List Piece} (hr : Running t) (hf : t.fin = false) (hb : t.buflen = 0)
    (h0 : 0 < chunk t) (hn : chunk t ≤ 168) (hs : ∀ p ∈ ps, SourceOk (withPiece p t) p.cnt.toNat)
    (hl : t.dstLen.toNat = dsize t) (hd : DestinationOk t (dsize t)) :
    ∃ u, UpdatesTo ps t u ∧ exec .digest u = .next (digestBody u) ∧
      Buffered t.h (ps.flatMap (pieceBytes t)) u ∧
      u.total = t.total + BitVec.ofNat 64 (ps.flatMap (pieceBytes t)).length ∧
      u = { t with
        h := u.h, buf := u.buf, buflen := u.buflen, total := u.total, srcAddr := u.srcAddr, srcAddrHi := u.srcAddrHi
        srcOff := u.srcOff, srcCnt := u.srcCnt, trace := u.trace } := by
  obtain ⟨u, hrun, hsame, htotal⟩ := updates_run hr hf hs
  have hframe := updatesTo_frame hr hf hs hrun
  have hok : DigestOk u := by
    rw [hframe]
    exact ⟨hr, hf, hl, hd⟩
  exact ⟨u, hrun, exec_digest_of_ok hok, (buffered_pushBytes hb h0 hn _).of_sameEngine hsame, htotal, hframe⟩

/-! ### The MD family -/

/-- The INIT commands of the MD family create their instance in every state (R141 to R143). -/
theorem exec_initMd {i : Instr} {a : Alg}
    (h : (i = .initMd5 ∧ a = .md5) ∨ (i = .initSha1 ∧ a = .sha1) ∨ (i = .initSha256 ∧ a = .sha256)) :
    IsMd a ∧ ∀ s, exec i s = .next (createInstance a 0 .keccak 0 s) := by
  obtain ⟨rfl, rfl⟩ | ⟨rfl, rfl⟩ | ⟨rfl, rfl⟩ := h <;>
  exact ⟨⟨by decide, by decide⟩, fun _ => rfl⟩

/-! ### The sponge -/

/-- The output length of a new sponge, as a number (R34). -/
theorem toNat_keccakOutbits (kpad : KPad) {kbits : Nat} (w : Word) (hk : kbits < 2 ^ 10) :
    (keccakOutbits kpad kbits w).toNat = if kpad = .shake ∨ kpad = .cshake then w.toNat else kbits := by
  rw [keccakOutbits, apply_ite BitVec.toNat, BitVec.toNat_ofNat, Nat.mod_eq_of_lt (by omega)]
  simp only [variableOutput_iff]

/-- Padding a stream: the last block of the reference is made of the bytes that are not yet absorbed (R284). -/
theorem digestBody_sponge {s : State} {data : List Byte} (hb : Buffered (Vector.replicate 50 0) data s)
    (hk : s.alg = .keccak) (h0 : 0 < chunk s) (hn : chunk s ≤ 168) (hw : s.mem.wf = true) {k : Nat}
    (hks : k < dsize s) :
    (digestBody s).mem.read (dstBase s + k) = spongeByte s.kpad (chunk s) data k := by
  obtain ⟨habs, hlive, hlen⟩ := hb
  have hr : s.buflen.toNat < chunk s := hlen ▸ Nat.mod_lt _ h0
  rw [digestBody_read_keccak hw hk hr hn hks, habs, hlive, hk]
  rfl

end Sys2Proof.Machine

namespace Sys2Proof.Proofs

open Sys2Proof.Machine Sys2Proof.Claims

/-- Settles O30: DIGEST finds the message in the engine of the new instance, and `digestBody_hash` reads its output. -/
theorem streamedHashIsTheHashOfTheMessage : Obligations.StreamedHashIsTheHashOfTheMessage := by
  intro s i a ps hi _ hw hs hl hd
  obtain ⟨ha, hexec⟩ := exec_initMd hi
  set t := createInstance a 0 .keccak 0 s
  have hc : chunk t = 64 := chunk_md t ha.1 ha.2
  obtain ⟨u, hrun, hdigest, hbuf, htotal, hframe⟩ := stream_run (t := t) ⟨rfl, ha.1⟩ rfl rfl (by omega) (by omega)
    hs hl hd
  have halg : u.alg = a := by rw [hframe]; rfl
  have herr : u.err = .none := by rw [hframe]; rfl
  have hmem : u.mem = s.mem := by rw [hframe]; rfl
  have hbase : dstBase u = dstBase s := by rw [hframe]; rfl
  have hsize : dsize u = dsizeOf a 0 := by rw [hframe]; rfl
  have hmd : IsMd u.alg := halg ▸ ha
  obtain ⟨hzero, hfresh⟩ := digestBody_fresh hmd
  refine ⟨t, u, _, hexec s, hrun, hdigest, fun k hk => ?hash, (digestBody_err u).trans herr,
    (digestBody_alg u).trans halg, digestBody_buflen u, hzero, fun j hj hjl => ?h⟩
  case hash =>
    have hinit : ∀ i (hi : i < 50), i < liveCount u.alg → t.h[i] = initialWord u.alg i := fun i hi hlt => by
      rw [halg] at hlt ⊢
      exact createInstance_live a 0 .keccak 0 s hi hlt
    rw [← hbase, digestBody_hash hbuf hmd (htotal.trans (BitVec.zero_add _)) (hmem ▸ hw) hinit (hsize ▸ hk), halg]
    rfl
  case h => rw [hfresh j hj (halg ▸ hjl), halg]

/-- Settles O31: DIGEST finds the message in the engine of the new sponge, and pads and squeezes as the reference. -/
theorem streamedSpongeIsTheSpongeOfTheMessage : Obligations.StreamedSpongeIsTheSpongeOfTheMessage := by
  intro s kpad kbits ps hk hv _ hw hs n hl hd
  have hp := (paramsLegal_iff kpad kbits s.argOutbits).2 ⟨hk, hv⟩
  set t := keccakInstance kpad kbits s
  have hc : chunk t = (1600 - 2 * kbits) / 8 := chunk_keccakInstance kpad s hk
  have hchunk := chunk_of_legal_kbits hk
  simp only [← hc, List.mem_cons, List.not_mem_nil, or_false, Prod.mk.injEq] at hchunk
  have hsize : dsize t = n := by rw [dsize_keccakInstance, toNat_keccakOutbits kpad _ (lt_of_legal_kbits hk).2]
  have hh : t.h = Vector.replicate 50 0 := withInitial_keccak _
  obtain ⟨u, hrun, hdigest, hbuf, -, hframe⟩ := stream_run (t := t) ⟨rfl, (by decide : Alg.keccak ≠ .none)⟩ rfl rfl
    (by omega) (by omega) hs (hsize ▸ hl) (hsize ▸ hd)
  refine ⟨t, u, _, exec_initKeccak_of_legal hp, hrun, hdigest, fun k hkn => ?_⟩
  have hcu : chunk u = chunk t := by rw [hframe]; rfl
  have hsizeu : dsize u = n := by rw [hframe]; exact hsize
  have hbase : dstBase u = dstBase s := by rw [hframe]; rfl
  have hmem : u.mem = s.mem := by rw [hframe]; rfl
  have hpad : u.kpad = kpad := by rw [hframe]; rfl
  rw [hh] at hbuf
  rw [← hbase, digestBody_sponge hbuf (by rw [hframe]; rfl) (by omega) (by omega) (hmem ▸ hw) (hsizeu ▸ hkn), hcu, hc,
    hpad]
  rfl

end Sys2Proof.Proofs
end

section
/-! SUPPORT. `KECCAK_F` is a bijection (R270): every step of a round is injective. The one that needs an argument is
theta, whose effect on the column parities is a circulant that doubling turns into one without rotation. -/

namespace Sys2Proof.Machine

/-! ### Words, lanes, bits -/

theorem lanes_ext {l l' : Lanes} (h : ∀ x y, x < 5 → y < 5 → laneXY l x y = laneXY l' x y) : l = l' :=
  Vector.ext fun i hi => by
    have := h (i % 5) (i / 5) (by omega) (by omega)
    simpa only [laneXY, Nat.mod_add_div, laneAt_eq _ hi] using this

/-- A dword is its two halves. -/
theorem dword_ext {d e : Dword} (hlo : d.extractLsb' 0 32 = e.extractLsb' 0 32)
    (hhi : d.extractLsb' 32 32 = e.extractLsb' 32 32) : d = e := by
  have hlo' := congrArg BitVec.toNat hlo
  have hhi' := congrArg BitVec.toNat hhi
  rw [(toNat_halves _).1, (toNat_halves _).1] at hlo'
  rw [(toNat_halves _).2, (toNat_halves _).2] at hhi'
  exact BitVec.eq_of_toNat_eq (by omega)

theorem lanesOfWords_injective : Function.Injective lanesOfWords := fun g h e =>
  words_ext g h fun k hk => by
    obtain ⟨glo, ghi⟩ := laneAt_lanesOfWords g (i := k / 2) (by omega)
    obtain ⟨hlo, hhi⟩ := laneAt_lanesOfWords h (i := k / 2) (by omega)
    rw [← wordAt_eq _ _ hk, ← wordAt_eq _ _ hk]
    obtain hk2 | hk2 : k = 2 * (k / 2) ∨ k = 2 * (k / 2) + 1 := by omega
    · rw [hk2, ← glo, ← hlo, e]
    · rw [hk2, ← ghi, ← hhi, e]

theorem wordsOfLanes_injective : Function.Injective wordsOfLanes := fun l m e =>
  Vector.ext fun i hi => by
    obtain ⟨llow, lhigh⟩ := wordAt_wordsOfLanes l hi
    obtain ⟨mlow, mhigh⟩ := wordAt_wordsOfLanes m hi
    rw [← laneAt_eq l hi, ← laneAt_eq m hi]
    exact dword_ext (by rw [← llow, ← mlow, e]) (by rw [← lhigh, ← mhigh, e])

/-! ### Rho, pi, chi, iota (R268, R269, R271) -/

theorem rotl64_injective {n : Nat} (hn : n < 64) : Function.Injective fun d : Dword => rotl64 d n :=
  fun d e h => BitVec.eq_of_getLsbD_eq fun i hi => by
    rw [← getLsbD_rotl64_moved d hn hi, ← getLsbD_rotl64_moved e hn hi]
    exact congrArg (BitVec.getLsbD · _) h

theorem keccakRho_lt : ∀ i, keccakRho.getD i 0 < 64 := fun i => by
  by_cases hi : i < 25
  · have table : ∀ i < 25, keccakRho.getD i 0 < 64 := by decide
    exact table i hi
  · rw [List.getD_eq_default _ _ (Nat.not_lt.1 hi)]
    decide

/-- Each lane is rotated and goes to a place of its own. -/
theorem rhoPi_injective : Function.Injective rhoPi := fun l l' e =>
  lanes_ext fun x y hx hy => rotl64_injective (keccakRho_lt (x + 5 * y)) <| by
    show rotl64 _ _ = rotl64 _ _
    rw [← laneXY_rhoPi l hx hy, ← laneXY_rhoPi l' hx hy, e]

/-- Chi permutes the 32 values of a row. -/
theorem chi_row_injective : ∀ a₀ a₁ a₂ a₃ a₄ b₀ b₁ b₂ b₃ b₄ : Bool,
    (a₀ ^^ (!a₁ && a₂)) = (b₀ ^^ (!b₁ && b₂)) → (a₁ ^^ (!a₂ && a₃)) = (b₁ ^^ (!b₂ && b₃)) →
    (a₂ ^^ (!a₃ && a₄)) = (b₂ ^^ (!b₃ && b₄)) → (a₃ ^^ (!a₄ && a₀)) = (b₃ ^^ (!b₄ && b₀)) →
    (a₄ ^^ (!a₀ && a₁)) = (b₄ ^^ (!b₀ && b₁)) →
    a₀ = b₀ ∧ a₁ = b₁ ∧ a₂ = b₂ ∧ a₃ = b₃ ∧ a₄ = b₄ := by decide

theorem chi_bit (l : Lanes) {x y z : Nat} (hx : x < 5) (hy : y < 5) (hz : z < 64) :
    (laneXY (chi l) x y).getLsbD z = ((laneXY l x y).getLsbD z ^^
      (!(laneXY l ((x + 1) % 5) y).getLsbD z && (laneXY l ((x + 2) % 5) y).getLsbD z)) := by
  rw [laneXY_chi l hx hy, BitVec.getLsbD_xor, BitVec.getLsbD_and, BitVec.getLsbD_not, decide_eq_true hz, Bool.true_and]

theorem chi_injective : Function.Injective chi := fun l l' e =>
  lanes_ext fun x y hx hy => BitVec.eq_of_getLsbD_eq fun z hz => by
    have row (x : Nat) (hx : x < 5) := (chi_bit l hx hy hz).symm.trans
      ((congrArg (fun m => (laneXY m x y).getLsbD z) e).trans (chi_bit l' hx hy hz))
    obtain ⟨h0, h1, h2, h3, h4⟩ := chi_row_injective _ _ _ _ _ _ _ _ _ _ (row 0 (by decide)) (row 1 (by decide))
      (row 2 (by decide)) (row 3 (by decide)) (row 4 (by decide))
    interval_cases x
    exacts [h0, h1, h2, h3, h4]

theorem iota_injective (r : Nat) : Function.Injective (iota r) := fun l l' e =>
  lanes_ext fun x y hx hy => by
    have := laneXY_iota l hx hy r
    rw [e, laneXY_iota l' hx hy r] at this
    exact (BitVec.xor_left_inj _).1 this.symm

/-! ### Theta (R267) -/

/-- Bit `z` of the parity of column `x`, the coordinates taken round the ends. -/
def parityBit (l : Lanes) (x : ZMod 5) (z : ZMod 64) : Bool := (thetaC l x.val).getLsbD z.val

theorem rotl64_one_bit (d : Dword) (z : ZMod 64) : (rotl64 d 1).getLsbD z.val = d.getLsbD (z - 1).val := by
  have hz : ((z - 1).val + 1) % 64 = z.val := by
    have := ZMod.val_add (z - 1) 1
    rw [sub_add_cancel] at this
    exact this.symm
  rw [← getLsbD_rotl64_moved d (by decide : 1 < 64) (ZMod.val_lt (z - 1)), hz]

/-- What theta adds to every bit of a column: the parities of two columns nearby. -/
theorem thetaD_bit (l : Lanes) (x : ZMod 5) (z : ZMod 64) :
    (thetaD l x.val).getLsbD z.val = (parityBit l (x - 1) z ^^ parityBit l (x + 1) (z - 1)) := by
  have hprev : (x.val + 4) % 5 = (x - 1).val := by rw [sub_eq_add_neg, ZMod.val_add]; rfl
  have hnext : (x.val + 1) % 5 = (x + 1).val := by rw [ZMod.val_add]; rfl
  rw [thetaD, BitVec.getLsbD_xor, rotl64_one_bit, hprev, hnext]
  rfl

theorem theta_bit (l : Lanes) (x : ZMod 5) {y : Nat} (hy : y < 5) (z : ZMod 64) :
    (laneXY (theta l) x.val y).getLsbD z.val =
      ((laneXY l x.val y).getLsbD z.val ^^ (parityBit l (x - 1) z ^^ parityBit l (x + 1) (z - 1))) := by
  rw [laneXY_theta l (ZMod.val_lt x) hy, BitVec.getLsbD_xor, thetaD_bit]

/-- A column has an odd number of lanes, so its parity changes as each of its bits does. -/
theorem parityBit_theta (l : Lanes) (x : ZMod 5) (z : ZMod 64) :
    parityBit (theta l) x z = (parityBit l x z ^^ (parityBit l (x - 1) z ^^ parityBit l (x + 1) (z - 1))) := by
  have odd : ∀ a b c d e t : Bool,
      ((((a ^^ t) ^^ (b ^^ t)) ^^ (c ^^ t)) ^^ (d ^^ t) ^^ (e ^^ t)) = ((((a ^^ b) ^^ c) ^^ d ^^ e) ^^ t) := by decide
  rw [parityBit, thetaC_eq, parityBit, thetaC_eq]
  simp only [BitVec.getLsbD_xor, theta_bit l x (by decide : 0 < 5), theta_bit l x (by decide : 1 < 5),
    theta_bit l x (by decide : 2 < 5), theta_bit l x (by decide : 3 < 5), theta_bit l x (by decide : 4 < 5)]
  exact odd _ _ _ _ _ _

section
variable {f : ZMod 5 → ZMod 64 → Bool} (hf : ∀ x z, f x z = (f (x - 1) z ^^ f (x + 1) (z - 1)))
include hf

/-- A recurrence over two neighbours holds over any power of two: the two middle terms cancel. -/
theorem circulant_double (n : Nat) (x : ZMod 5) (z : ZMod 64) :
    f x z = (f (x - 2 ^ n) z ^^ f (x + 2 ^ n) (z - 2 ^ n)) := by
  induction n generalizing x z with
  | zero => simpa using hf x z
  | succ n ih =>
    have cancel : ∀ a m b : Bool, ((a ^^ m) ^^ (m ^^ b)) = (a ^^ b) := by decide
    rw [ih x z, ih (x - 2 ^ n) z, ih (x + 2 ^ n) (z - 2 ^ n), sub_add_cancel, add_sub_cancel_right, cancel, pow_succ,
      pow_succ, mul_two, mul_two, sub_sub, add_assoc, sub_sub]

/-- Over `2 ^ 6` places the rotation is gone and the neighbours are the same two: a recurrence on five bits. -/
theorem circulant_row (x : ZMod 5) (z : ZMod 64) : f x z = (f (x + 1) z ^^ f (x - 1) z) := by
  have h := circulant_double hf 6 x z
  rwa [show (2 ^ 6 : ZMod 5) = -1 from rfl, show (2 ^ 6 : ZMod 64) = 0 from rfl, sub_neg_eq_add, sub_zero,
    ← sub_eq_add_neg] at h

/-- Its only solution is zero: it makes the bits repeat every three places, so all are equal. -/
theorem circulant_kernel (x : ZMod 5) (z : ZMod 64) : f x z = false := by
  have cancel : ∀ a b c : Bool, a = (b ^^ (a ^^ c)) → b = c := by decide
  have three (x : ZMod 5) : f (x + 3) z = f x z := by
    have h1 := circulant_row hf (x + 1) z
    have h2 := circulant_row hf (x + 2) z
    rw [add_sub_cancel_right, show x + 1 + 1 = x + 2 by ring] at h1
    rw [show x + 2 + 1 = x + 3 by ring, show x + 2 - 1 = x + 1 by ring, h1] at h2
    exact cancel _ _ _ h2
  have one (x : ZMod 5) : f (x + 1) z = f x z := by
    rw [← three x, ← three (x + 3), add_assoc]
    rfl
  have h := circulant_row hf x z
  rwa [one, ← one (x - 1), sub_add_cancel, Bool.xor_self] at h

end

/-- Lanes that theta takes to the same have the same column parities: their difference solves the recurrence. -/
theorem parityBit_of_theta_eq {l l' : Lanes} (h : theta l = theta l') (x : ZMod 5) (z : ZMod 64) :
    parityBit l x z = parityBit l' x z := by
  have exchange : ∀ p q r p' q' r' : Bool, (p ^^ (q ^^ r)) = (p' ^^ (q' ^^ r')) →
      (p ^^ p') = ((q ^^ q') ^^ (r ^^ r')) := by decide
  refine bne_eq_false_iff_eq.1 (circulant_kernel (f := fun x z => parityBit l x z ^^ parityBit l' x z)
    (fun x z => exchange _ _ _ _ _ _ ?_) x z)
  rw [← parityBit_theta, ← parityBit_theta, h]

theorem theta_injective : Function.Injective theta := fun l l' e =>
  lanes_ext fun x y hx hy => BitVec.eq_of_getLsbD_eq fun z hz => by
    have h := theta_bit l x hy z
    rw [e, theta_bit l' x hy z, parityBit_of_theta_eq e, parityBit_of_theta_eq e, ZMod.val_natCast_of_lt hx,
      ZMod.val_natCast_of_lt hz] at h
    exact (Bool.xor_left_inj.1 h).symm

/-! ### The permutation (R270) -/

theorem keccakRound_injective (r : Nat) : Function.Injective fun l => keccakRound l r :=
  (iota_injective r).comp (chi_injective.comp (rhoPi_injective.comp theta_injective))

theorem keccakRounds_injective (n : Nat) : Function.Injective (keccakRounds n) := by
  induction n with
  | zero => exact Function.injective_id
  | succ n ih =>
    rw [show keccakRounds (n + 1) = (fun l => keccakRound l n) ∘ keccakRounds n from funext (keccakRounds_succ n)]
    exact (keccakRound_injective n).comp ih

theorem keccakF_injective : Function.Injective keccakF :=
  wordsOfLanes_injective.comp ((keccakRounds_injective 24).comp lanesOfWords_injective)

theorem finite_words : Finite (Vector Word 50) :=
  have : Finite Word := Finite.of_equiv _ BitVec.equivFin.toEquiv.symm
  Finite.of_injective (fun (h : Vector Word 50) (i : Fin 50) => h[i]) fun g h e =>
    words_ext g h fun i hi => congrFun e ⟨i, hi⟩

end Sys2Proof.Machine

namespace Sys2Proof.Proofs

open Sys2Proof.Machine

/-- Settles O39: an injective map of the finite set of states is onto. -/
theorem keccakPermutationIsBijective : Obligations.KeccakPermutationIsBijective :=
  have := finite_words
  Finite.injective_iff_bijective.1 keccakF_injective

end Sys2Proof.Proofs
end

section
/-! SUPPORT. The constant tables against the rules that generate them (R196, R233, R264 to R266). -/

namespace Sys2Proof.Machine

/-! ### SHA-256 (R233) -/

/-- The first 64 primes. -/
def firstPrimes : List Nat :=
  [2, 3, 5, 7, 11, 13, 17, 19, 23, 29, 31, 37, 41, 43, 47, 53, 59, 61, 67, 71, 73, 79, 83, 89, 97, 101, 103, 107, 109,
    113, 127, 131, 137, 139, 149, 151, 157, 163, 167, 173, 179, 181, 191, 193, 197, 199, 211, 223, 227, 229, 233, 239,
    241, 251, 257, 263, 269, 271, 277, 281, 283, 293, 307, 311]

/-- They are what trial division leaves of the numbers below 312. -/
theorem firstPrimes_eq : (List.range 312).filter (fun p => decide (2 ≤ p) && (List.range p).all fun d =>
    decide (d < 2) || decide (p % d ≠ 0)) = firstPrimes := by decide +kernel

/-- The whole part of the cube root of a number below 343. -/
def wholeCubeRoot (p : Nat) : Nat := ((List.range 7).filter fun c => (c + 1) ^ 3 ≤ p).length

/-- The cube root of the prime of entry `j` with 32 bits after the point: its whole part before the constant's bits. -/
def scaledCubeRoot (j : Nat) : Nat := wholeCubeRoot (firstPrimes.getD j 0) * 2 ^ 32 + (sha256K.getD j 0).toNat

theorem scaledCubeRoot_mod (j : Nat) : scaledCubeRoot j % 2 ^ 32 = (sha256K.getD j 0).toNat := by
  rw [scaledCubeRoot, Nat.mul_add_mod', Nat.mod_eq_of_lt (BitVec.isLt _)]

/-- It is the floor of `2 ^ 32` times the root. -/
theorem scaledCubeRoot_bounds : ∀ j, j < 64 →
    scaledCubeRoot j ^ 3 ≤ firstPrimes.getD j 0 * 2 ^ 96 ∧
      firstPrimes.getD j 0 * 2 ^ 96 < (scaledCubeRoot j + 1) ^ 3 := by decide +kernel

/-! ### The rotation offsets of Keccak (R265) -/

/-- The walk of the lanes that sets the offsets. -/
def rhoWalk : Nat → Nat × Nat
  | 0 => (1, 0)
  | t + 1 => ((rhoWalk t).2, (2 * (rhoWalk t).1 + 3 * (rhoWalk t).2) % 5)

/-- Step `t` of the walk meets the lane whose offset is the triangular number `t + 1`. -/
theorem keccakRho_rhoWalk : ∀ t, t < 24 →
    keccakRho.getD ((rhoWalk t).1 + 5 * (rhoWalk t).2) 0 = (t + 1) * (t + 2) / 2 % 64 := by decide +kernel

/-! ### The round constants of Keccak (R264) -/

/-- The shift register that makes the round constants. -/
def rcRegister : Nat → BitVec 8
  | 0 => 1#8
  | n + 1 => (rcRegister n <<< 1) ^^^ (if (rcRegister n).getLsbD 7 then 0x71#8 else 0#8)

/-- The bit of a round constant at each of its seven places is an output of the register. -/
theorem keccakRC_register : ∀ r, r < 24 → ∀ m, m < 7 →
    (keccakRC.getD r 0).getLsbD (2 ^ m - 1) = (rcRegister (7 * r + m)).getLsbD 0 := by decide +kernel

/-- No other bit of a round constant is set. -/
theorem keccakRC_places : ∀ r, r < 24 → ∀ b, b < 64 → (keccakRC.getD r 0).getLsbD b = true →
    ∃ m, m < 7 ∧ b = 2 ^ m - 1 := by decide +kernel

end Sys2Proof.Machine

namespace Sys2Proof.Proofs

open Sys2Proof.Machine

/-- Settles O40: each table is compared with the values of its rule; `K` with the cube roots of the primes, `RHO` along
the walk, `RC` at the seven places that the shift register sets. -/
theorem tablesObeyTheirGeneratingRules : Obligations.TablesObeyTheirGeneratingRules := by
  refine ⟨rfl, ?sha256, ⟨fun t => (rhoWalk t).1, fun t => (rhoWalk t).2, rfl, rfl, rfl, fun t ht =>
    ⟨keccakRho_rhoWalk t ht, rfl, rfl⟩⟩, fun x y hx hy => keccakPiSrc_getD hx hy, ?roundConstants⟩
  case sha256 =>
    rw [firstPrimes_eq]
    exact ⟨rfl, fun j hj => ⟨scaledCubeRoot j, scaledCubeRoot_mod j, scaledCubeRoot_bounds j hj⟩⟩
  case roundConstants =>
    refine ⟨rcRegister, rfl, fun n => rfl, fun r hr b hb => ⟨fun hbit => ?_, ?_⟩⟩
    · obtain ⟨m, hm, rfl⟩ := keccakRC_places r hr b hb hbit
      exact ⟨m, hm, rfl, keccakRC_register r hr m hm ▸ hbit⟩
    · rintro ⟨m, hm, rfl, hbit⟩
      rwa [keccakRC_register r hr m hm]

end Sys2Proof.Proofs
end
